-- ==== Sys2Proof/Word.lean ====
section
/-! DEFINITION. The word types of the block and the one-bit level (00_scope.md R13, R16). -/

namespace Sys2Proof

/-- A byte is 8 bits, bit 7 its most significant (R13). -/
abbrev Byte := BitVec 8

/-- An operand word of the host interface: ARG0 and ARG1 are 32 bits wide (R32). -/
abbrev Word := BitVec 32

/-- A level is one bit, 0 (low) or 1 (high) (R16). -/
inductive Level where
  | low
  | high
  deriving DecidableEq, Repr, Inhabited

/-- The bit a level is. -/
def Level.toBool : Level → Bool
  | .low => false
  | .high => true

/-- The level a bit is. -/
def Level.ofBool : Bool → Level
  | false => .low
  | true => .high

end Sys2Proof
end

