-- ==== Sys2Proof/Config.lean ====
section
/-! DEFINITION. The configuration of 00_scope.md R9 (what an implementation fixes) and the free values
(what the spec leaves open at run time). The four lines, the two planes, the pixel classes and the transport
answers stand here because the configuration and the free values are typed by them. -/

namespace Sys2Proof

/-- The four lines of R42: RST, CS and DC are outputs, BUSY is an input. -/
inductive Line where
  | rst
  | cs
  | dc
  | busy
  deriving DecidableEq, Repr

/-- A line identifier, opaque and only compared (R9 LINE_*, D37).
DESIGN CHOICE (log 7): a natural number stands for the opaque identifier. -/
structure LineId where
  id : Nat
  deriving DecidableEq, Repr

/-- A transport error payload other than `none`: R9's opaque type TERR, only stored and compared (D30, N15).
DESIGN CHOICE (log 6): a natural number stands for the opaque payload. -/
structure Terr where
  token : Nat
  deriving DecidableEq, Repr, Inhabited

/-- The outcome `ok` or `fail(e)` of a transport call (R15, R266). -/
inductive Answer where
  | ok
  | fail (e : Terr)
  deriving DecidableEq, Repr, Inhabited

/-- The two bitplanes: the white-plane PW and the red-plane PR (R19, R45). -/
inductive Plane where
  | pw
  | pr
  deriving DecidableEq, Repr

/-- The pixel classes of the classifier (R19). -/
inductive PixelClass where
  | black
  | red
  | white
  deriving DecidableEq, Repr

/-- What OVERLAP_CLASS may be: BLACK or WHITE, never RED (R9, R145, D8). -/
inductive OverlapClass where
  | black
  | white
  deriving DecidableEq, Repr

/-- The class an OVERLAP_CLASS value names. -/
def OverlapClass.toClass : OverlapClass → PixelClass
  | .black => .black
  | .white => .white

/-- The parameters of R9 that are OPEN or only bounded. They are fixed for a run; State holds the record so that
a statement about every state is one about every configuration (log 4). -/
structure Config where
  /-- T_RST_MS, the reset-line hold, constrained to be at least 200 (D20). -/
  tRstMs : Nat
  /-- POLL_DELAY_MS, the optional delay between busy polls (R199, D19). -/
  pollDelayMs : Nat
  /-- BUSY_ACTIVE_LEVEL, the BUSY level that means busy (R197, D9). -/
  busyActive : Level
  /-- OVERLAP_CLASS, the class of an intensity both below `low` and at or above `high` (R145, D8). -/
  overlap : OverlapClass
  /-- SPI_CPOL, the idle polarity of the bus clock (R81, D16). -/
  spiCpol : Level
  /-- LINE_RST, LINE_CS, LINE_DC and LINE_BUSY (R9, D37). -/
  lineRst : LineId
  lineCs : LineId
  lineDc : LineId
  lineBusy : LineId
  deriving DecidableEq, Repr

/-- The identifier of a line in a configuration. -/
def Config.lineId (c : Config) : Line → LineId
  | .rst => c.lineRst
  | .cs => c.lineCs
  | .dc => c.lineDc
  | .busy => c.lineBusy

/-- The configuration with R9's values and defaults. The four identifiers are opaque in the spec; any four distinct
ones would do (DESIGN CHOICE, log 7). -/
def Config.standard : Config where
  tRstMs := 200
  pollDelayMs := 0
  busyActive := .low
  overlap := .black
  spiCpol := .low
  lineRst := ⟨0⟩
  lineCs := ⟨1⟩
  lineDc := ⟨2⟩
  lineBusy := ⟨3⟩

/-- `W`, the panel width in pixels (R9; fixed for this hardware). -/
def Config.width : Nat := 800

/-- `H`, the panel height in pixels (R9; fixed for this hardware). -/
def Config.height : Nat := 480

/-- `BPR = W / 8`, bytes per plane row (R9). -/
def Config.bytesPerRow : Nat := 100

/-- `PLANE_BYTES = (W / 8) * H` (R9, R11). -/
def Config.planeBytes : Nat := 48000

/-- `T_REFRESH_MS`, the delay after DISPLAY_REFRESH (R9). -/
def Config.tRefreshMs : Nat := 100

/-- `SCLK_HZ`, about 2 MHz: timing only, no rule depends on it (R9, R321). -/
def Config.sclkHz : Nat := 2000000

/-- FREE VALUE: the contents of a plane byte at power-on (R303, U11 "any value"). No body: nothing can be proved of it. -/
opaque Config.powerOnByte : Plane → Nat → Byte

/-- FREE VALUE: the Transport's answer to a call, when State lists none (R266, U8 "any value"). -/
opaque Config.freeAnswer : Nat → Answer

/-- FREE VALUE: the BUSY level at a sample, when State lists none (R197, U9 "any value"). -/
opaque Config.freeSample : Nat → Level

/-- FREE VALUE: the answer to ImgPixel(x, y) after the image was changed during ENCODE (R312, U17 "any value");
the first argument numbers the change. -/
opaque Config.freePixel : Nat → Nat → Nat → Byte

/-- FREE VALUE: which of the two values a racing plane access sees, `true` for the other order than the one the steps
were taken in (R311, U16 "any value of the two"). -/
opaque Config.freeRace : Nat → Bool

end Sys2Proof
end

