-- ==== Sys2Proof/Syntax.lean ====
section
/-! DEFINITION. The instructions of spec/opcode_table.json, one constructor a row: the four host operations of
30_encoding.md R101 and the 29 wire commands of 42_wire_commands.md; and the host program lines of R114, R116, R118. -/

namespace Sys2Proof

/-- One constructor per row of the opcode table. Operands are the fields the spec reads (R103); ignored fields (R105)
are no part of an instruction. -/
inductive Instr where
  /-- ENCODE, OP 0x01: `low` and `high` thresholds (R141). -/
  | encode (low high : Byte)
  /-- INIT, OP 0x02 (R177). -/
  | init
  /-- RENDER, OP 0x03: declared plane lengths `Lw` and `Lr` (R181). -/
  | render (lw lr : Word)
  /-- SLEEP, OP 0x04 (R185). -/
  | sleep
  /-- 0x00 (R220). -/
  | panelSetting
  /-- 0x01 (R221). -/
  | powerSetting
  /-- 0x02 (R222). -/
  | powerOff
  /-- 0x04 (R223). -/
  | powerOn
  /-- 0x07 (R224). -/
  | deepSleep
  /-- 0x10 (R225). -/
  | dataStartTransmission1
  /-- 0x11, never sent by the block (R226). -/
  | dataStop
  /-- 0x12 (R227). -/
  | displayRefresh
  /-- 0x13 (R228). -/
  | dataStartTransmission2
  /-- 0x15, unnamed in DRV (R229). -/
  | cmd15
  /-- 0x20, never sent (R230). -/
  | lutForVcom
  /-- 0x21, never sent (R231). -/
  | lutBlue
  /-- 0x22, never sent (R232). -/
  | lutWhite
  /-- 0x23, never sent (R233). -/
  | lutGray1
  /-- 0x24, never sent (R234). -/
  | lutGray2
  /-- 0x25, never sent (R235). -/
  | lutRed0
  /-- 0x26, never sent (R236). -/
  | lutRed1
  /-- 0x27, never sent (R237). -/
  | lutRed2
  /-- 0x28, never sent (R238). -/
  | lutRed3
  /-- 0x29, never sent (R239). -/
  | lutXon
  /-- 0x30, never sent (R240). -/
  | pllControl
  /-- 0x50 (R241). -/
  | vcomAndDataIntervalSetting
  /-- 0x60 (R242). -/
  | tconSetting
  /-- 0x61, never sent (R243). -/
  | tconResolution
  /-- 0x70, never sent (R244). -/
  | revision
  /-- 0x71 (R245). -/
  | getStatus
  /-- 0x80, never sent (R246). -/
  | autoMeasurementVcom
  /-- 0x81, never sent (R247). -/
  | readVcomValue
  /-- 0x82, never sent (R248). -/
  | vcmDcSetting
  deriving DecidableEq, Repr

/-- The two encoded formats that hold instructions (R100): a host operation or a wire command. -/
inductive Format where
  | hostOp
  | wireCmd
  deriving DecidableEq, Repr

/-- Which format an instruction is encoded in (opcode_table.json "format"). -/
def Instr.format : Instr → Format
  | .encode _ _ | .init | .render _ _ | .sleep => .hostOp
  | .panelSetting | .powerSetting | .powerOff | .powerOn | .deepSleep | .dataStartTransmission1 | .dataStop
  | .displayRefresh | .dataStartTransmission2 | .cmd15 | .lutForVcom | .lutBlue | .lutWhite | .lutGray1 | .lutGray2
  | .lutRed0 | .lutRed1 | .lutRed2 | .lutRed3 | .lutXon | .pllControl | .vcomAndDataIntervalSetting | .tconSetting
  | .tconResolution | .revision | .getStatus | .autoMeasurementVcom | .readVcomValue | .vcmDcSetting => .wireCmd

/-- A line of a host program: the mnemonics of R114, the raw spelling of R116 and the pseudo-operation of R118.
Operands are the integers the line is written with; their ranges are checked in WellFormed.lean. -/
inductive HostLine where
  | encode (low high : Nat)
  | init
  | render (lw lr : Nat)
  | sleep
  | raw (op arg0 arg1 : Nat)
  | display (low high : Nat)
  deriving DecidableEq, Repr

end Sys2Proof
end

