-- ==== Sys2Proof/WellFormed.lean ====
section
/-! DEFINITION. The checks: a configuration is well formed as R10 says, and a host program line has its operands in
R114's ranges (the raw spelling's are the model's choice, log 28). An Instr needs no check: its operand types hold exactly
the values the encoding admits, and R104 accepts every one of them. -/

namespace Sys2Proof

/-- The four line identifiers are pairwise distinct (R10). -/
def Config.linesDistinct (c : Config) : Bool :=
  decide (c.lineRst ≠ c.lineCs ∧ c.lineRst ≠ c.lineDc ∧ c.lineRst ≠ c.lineBusy ∧
    c.lineCs ≠ c.lineDc ∧ c.lineCs ≠ c.lineBusy ∧ c.lineDc ≠ c.lineBusy)

/-- R10's constraints on a frame size: positive, and a width that is a multiple of 8. -/
def Config.sizeWf (w h : Nat) : Bool := decide (0 < w ∧ 0 < h ∧ w % 8 = 0)

/-- A configuration is well formed when R10's conditions hold. `POLL_DELAY_MS >= 0` holds of every natural number. -/
def Config.wf (c : Config) : Bool :=
  Config.sizeWf Config.width Config.height && decide (200 ≤ c.tRstMs) && c.linesDistinct

/-- R114: `low` and `high` are integers in 0..255. Used for the raw spelling's OP too (log 28). -/
def thresholdWf (n : Nat) : Bool := decide (n < 2 ^ 8)

/-- R114: `lw` and `lr` are integers in 0..2^32-1. Used for the raw spelling's operand words too (log 28). -/
def operandWordWf (n : Nat) : Bool := decide (n < 2 ^ 32)

/-- The operands of a host program line are in range: R114's ranges for ENCODE and RENDER, and ENCODE's for DISPLAY, which
expands to it (R118). R116 gives the raw spelling no ranges: OP in 0..255, the reserved values and the four others alike, and
both operand words below 2^32 are the model's DESIGN CHOICE (log 28). -/
def HostLine.wf : HostLine → Bool
  | .encode low high => thresholdWf low && thresholdWf high
  | .init => true
  | .render lw lr => operandWordWf lw && operandWordWf lr
  | .sleep => true
  | .raw op arg0 arg1 => thresholdWf op && operandWordWf arg0 && operandWordWf arg1
  | .display low high => thresholdWf low && thresholdWf high

end Sys2Proof
end

