-- ==== Sys2Proof/Decode.lean ====
section
/-! DEFINITION. The decoder and the encoder: host operations from (OP, ARG0, ARG1) (30_encoding.md R101 to R105), wire
commands from the command byte (R108, R111, R112; 42_wire_commands.md), total on every word and rejecting by name. The
two formats are separate spaces (20_memory.md R70): one byte value may name a row of each. -/

namespace Sys2Proof

/-- What is decoded: the three words of a host request, or the command byte of an exchange (R100). -/
inductive Encoded where
  | hostOp (op : Byte) (arg0 arg1 : Word)
  | wireCmd (command : Byte)
  deriving DecidableEq, Repr

/-- Why a word is no instruction. -/
inductive DecodeError where
  /-- An OP value outside 0x01..0x04 (R102). -/
  | reservedOperation (op : Byte)
  /-- One of the 227 command bytes that no source names (R111). -/
  | undefinedCommand (command : Byte)
  deriving DecidableEq, Repr

/-- The outcome of decoding. -/
inductive Decoded where
  | ok (i : Instr)
  | error (e : DecodeError)
  deriving DecidableEq, Repr

/-- The instruction, if there is one. -/
def Decoded.toOption : Decoded → Option Instr
  | .ok i => some i
  | .error _ => none

/-- `v[hi:lo]` of a 32-bit word as an 8-bit field, `hi = lo + 7` (R13). -/
def byteField (v : Word) (lo : Nat) : Byte := v.extractLsb' lo 8

/-- ENCODE's `low = ARG0[7:0]` (R103, R104). -/
def operandLow (arg0 : Word) : Byte := byteField arg0 0

/-- ENCODE's `high = ARG0[15:8]` (R103, R104). -/
def operandHigh (arg0 : Word) : Byte := byteField arg0 8

/-- ENCODE's `ARG0 = (high << 8) | low` (R114). -/
def packThresholds (low high : Byte) : Word := (high.setWidth 32 <<< 8) ||| low.setWidth 32

/-- The host operation that (OP, ARG0, ARG1) names: the whole OP byte is matched (R101), operands are read as R103 says,
ignored fields are not looked at (R105), and every other OP is reserved (R102). -/
def decodeHost (op : Byte) (arg0 arg1 : Word) : Decoded :=
  match op.toNat with
  | 0x01 => .ok (.encode (operandLow arg0) (operandHigh arg0))
  | 0x02 => .ok .init
  | 0x03 => .ok (.render arg0 arg1)
  | 0x04 => .ok .sleep
  | _ => .error (.reservedOperation op)

/-- The wire command that a command byte names: the 29 defined values (R111, R112, R220 to R248). -/
def decodeWire (command : Byte) : Decoded :=
  match command.toNat with
  | 0x00 => .ok .panelSetting
  | 0x01 => .ok .powerSetting
  | 0x02 => .ok .powerOff
  | 0x04 => .ok .powerOn
  | 0x07 => .ok .deepSleep
  | 0x10 => .ok .dataStartTransmission1
  | 0x11 => .ok .dataStop
  | 0x12 => .ok .displayRefresh
  | 0x13 => .ok .dataStartTransmission2
  | 0x15 => .ok .cmd15
  | 0x20 => .ok .lutForVcom
  | 0x21 => .ok .lutBlue
  | 0x22 => .ok .lutWhite
  | 0x23 => .ok .lutGray1
  | 0x24 => .ok .lutGray2
  | 0x25 => .ok .lutRed0
  | 0x26 => .ok .lutRed1
  | 0x27 => .ok .lutRed2
  | 0x28 => .ok .lutRed3
  | 0x29 => .ok .lutXon
  | 0x30 => .ok .pllControl
  | 0x50 => .ok .vcomAndDataIntervalSetting
  | 0x60 => .ok .tconSetting
  | 0x61 => .ok .tconResolution
  | 0x70 => .ok .revision
  | 0x71 => .ok .getStatus
  | 0x80 => .ok .autoMeasurementVcom
  | 0x81 => .ok .readVcomValue
  | 0x82 => .ok .vcmDcSetting
  | _ => .error (.undefinedCommand command)

/-- The decoder, total on both formats. -/
def decode : Encoded → Decoded
  | .hostOp op arg0 arg1 => decodeHost op arg0 arg1
  | .wireCmd command => decodeWire command

/-- The byte the opcode table gives an instruction: its OP value or its command value ("match", mask 0xFF). -/
def Instr.opcode : Instr → Byte
  | .encode _ _ => 0x01#8
  | .init => 0x02#8
  | .render _ _ => 0x03#8
  | .sleep => 0x04#8
  | .panelSetting => 0x00#8
  | .powerSetting => 0x01#8
  | .powerOff => 0x02#8
  | .powerOn => 0x04#8
  | .deepSleep => 0x07#8
  | .dataStartTransmission1 => 0x10#8
  | .dataStop => 0x11#8
  | .displayRefresh => 0x12#8
  | .dataStartTransmission2 => 0x13#8
  | .cmd15 => 0x15#8
  | .lutForVcom => 0x20#8
  | .lutBlue => 0x21#8
  | .lutWhite => 0x22#8
  | .lutGray1 => 0x23#8
  | .lutGray2 => 0x24#8
  | .lutRed0 => 0x25#8
  | .lutRed1 => 0x26#8
  | .lutRed2 => 0x27#8
  | .lutRed3 => 0x28#8
  | .lutXon => 0x29#8
  | .pllControl => 0x30#8
  | .vcomAndDataIntervalSetting => 0x50#8
  | .tconSetting => 0x60#8
  | .tconResolution => 0x61#8
  | .revision => 0x70#8
  | .getStatus => 0x71#8
  | .autoMeasurementVcom => 0x80#8
  | .readVcomValue => 0x81#8
  | .vcmDcSetting => 0x82#8

/-- The mnemonic the opcode table gives an instruction. -/
def Instr.mnemonic : Instr → String
  | .encode _ _ => "ENCODE"
  | .init => "INIT"
  | .render _ _ => "RENDER"
  | .sleep => "SLEEP"
  | .panelSetting => "PANEL_SETTING"
  | .powerSetting => "POWER_SETTING"
  | .powerOff => "POWER_OFF"
  | .powerOn => "POWER_ON"
  | .deepSleep => "DEEP_SLEEP"
  | .dataStartTransmission1 => "DATA_START_TRANSMISSION_1"
  | .dataStop => "DATA_STOP"
  | .displayRefresh => "DISPLAY_REFRESH"
  | .dataStartTransmission2 => "DATA_START_TRANSMISSION_2"
  | .cmd15 => "CMD_15"
  | .lutForVcom => "LUT_FOR_VCOM"
  | .lutBlue => "LUT_BLUE"
  | .lutWhite => "LUT_WHITE"
  | .lutGray1 => "LUT_GRAY_1"
  | .lutGray2 => "LUT_GRAY_2"
  | .lutRed0 => "LUT_RED_0"
  | .lutRed1 => "LUT_RED_1"
  | .lutRed2 => "LUT_RED_2"
  | .lutRed3 => "LUT_RED_3"
  | .lutXon => "LUT_XON"
  | .pllControl => "PLL_CONTROL"
  | .vcomAndDataIntervalSetting => "VCOM_AND_DATA_INTERVAL_SETTING"
  | .tconSetting => "TCON_SETTING"
  | .tconResolution => "TCON_RESOLUTION"
  | .revision => "REVISION"
  | .getStatus => "GET_STATUS"
  | .autoMeasurementVcom => "AUTO_MEASUREMENT_VCOM"
  | .readVcomValue => "READ_VCOM_VALUE"
  | .vcmDcSetting => "VCM_DC_SETTING"

/-- The encoder: the words of an instruction, ignored fields zero (R103, R114). -/
def encode (i : Instr) : Encoded :=
  match i with
  | .encode low high => .hostOp i.opcode (packThresholds low high) 0#32
  | .render lw lr => .hostOp i.opcode lw lr
  | .init | .sleep => .hostOp i.opcode 0#32 0#32
  | .panelSetting | .powerSetting | .powerOff | .powerOn | .deepSleep | .dataStartTransmission1 | .dataStop
  | .displayRefresh | .dataStartTransmission2 | .cmd15 | .lutForVcom | .lutBlue | .lutWhite | .lutGray1 | .lutGray2
  | .lutRed0 | .lutRed1 | .lutRed2 | .lutRed3 | .lutXon | .pllControl | .vcomAndDataIntervalSetting | .tconSetting
  | .tconResolution | .revision | .getStatus | .autoMeasurementVcom | .readVcomValue | .vcmDcSetting =>
    .wireCmd i.opcode

/-- The words of a host request laid out as one number, OP lowest (opcode_table.json numbers bit 0 as the least
significant bit of OP; the operand words follow it, log 13). -/
def hostWords (w : Nat) : Byte × Word × Word :=
  (BitVec.ofNat 8 w, BitVec.ofNat 32 (w / 2 ^ 8), BitVec.ofNat 32 (w / 2 ^ 40))

/-- The instruction the decoder reads from `nbits` bits `w`, every bit above them 0. The table's two formats share the
values 0x01, 0x02 and 0x04: a word that is a host operation is read as one, any other word of one byte as a command byte
(log 13). -/
def decodeTableWord (nbits w : Nat) : Option Instr :=
  let v := w % 2 ^ nbits
  match decodeHost (hostWords v).1 (hostWords v).2.1 (hostWords v).2.2 with
  | .ok i => some i
  | .error _ => if nbits ≤ 8 then (decodeWire (BitVec.ofNat 8 v)).toOption else none

end Sys2Proof
end

