-- ==== Sys2Proof/Machine/State.lean ====
section
/-! DEFINITION. The state of the block (10_state.md R30) with the pieces of its environment that one deterministic step
needs, the reasons a step can stop, and the state after power-on (R51, R300). -/

namespace Sys2Proof.Machine

/-- The CTL lifecycle phases, in R38's order. The reserved value 7 is never held (R39), so it is no constructor. -/
inductive Phase where
  | poweredOff
  | resetting
  | initializing
  | idle
  | transmitting
  | refreshing
  | sleeping
  deriving DecidableEq, Repr

/-- The result codes of R106. No other RESULT value is ever written (R107), so none is a constructor. -/
inductive ResultCode where
  | ok
  | dimensionMismatch
  | bufferSizeMismatch
  | illegalStateTransition
  | transportError
  | reservedOperation
  deriving DecidableEq, Repr

/-- The micro-sequences: those of R40, and RSV, the one-step sequence of a reserved operation (R170). -/
inductive Seq where
  | none
  | enc
  | init
  | render
  | sleep
  | rsv
  deriving DecidableEq, Repr

/-- The micro-sequencer position `upc = (seq, k)` (R40). -/
structure Upc where
  seq : Seq
  k : Nat
  deriving DecidableEq, Repr

/-- The sub-state of the busy-wait: W_CMD, W_SAMPLE, W_DELAY (R40, R196). -/
inductive Wst where
  | cmd
  | sample
  | delay
  deriving DecidableEq, Repr

/-- A line level as the block knows it: `unknown`, 0 or 1 (R43, R44). -/
inductive Lvl where
  | unknown
  | known (v : Level)
  deriving DecidableEq, Repr

/-- The outcome of a BUSY sample: `ok(v)` or `fail(e)` (R47). -/
inductive SampleAnswer where
  | ok (v : Level)
  | fail (e : Terr)
  deriving DecidableEq, Repr

/-- The event kinds of R47. Lines are named by their identifiers (R9). -/
inductive Event where
  | phase (p : Phase)
  | line (l : LineId) (v : Level) (r : Answer)
  | delay (ms : Nat)
  | cmd (b : Byte) (r : Answer)
  | data (b : Byte) (r : Answer)
  | sample (l : LineId) (r : SampleAnswer)
  deriving DecidableEq, Repr

/-- The image source a host presents (R77, R80): 16-bit width and height, and the intensity of each pixel. Pixel (x, y)
is listed under the key `y * width + x`; an unlisted pixel has intensity `background` (log 9). -/
structure Image where
  width : BitVec 16
  height : BitVec 16
  pixels : List Host.Cell
  background : Byte
  deriving DecidableEq, Repr

/-- A host write to a plane byte that a running RENDER may still send: the byte's value before the write, and the number
of the free choice that settles the race (R311, log 11). -/
structure Race where
  plane : Plane
  index : Nat
  old : Byte
  choice : Nat
  deriving DecidableEq, Repr

/-- What the host does next, one request a step, or whose turn it is (R271, log 1). -/
inductive HostReq where
  /-- The block takes a step. -/
  | block
  /-- HostWrite(idx, v) (R32). -/
  | regWrite (idx v : Nat)
  /-- HostRead(idx) (R32). -/
  | regRead (idx : Nat)
  /-- A host write of one plane byte (R45, R74). -/
  | planeWrite (p : Plane) (i : Nat) (v : Byte)
  /-- A host read of one plane byte (R45, R74). -/
  | planeRead (p : Plane) (i : Nat)
  /-- The host presents an image source on the image port (R80). -/
  | present (img : Image)
  /-- Block reset (R300). -/
  | blockReset
  /-- The poll loop of R115: HostRead(4) until RUN = 0, the block stepping meanwhile (log 18). -/
  | awaitIdle
  /-- R118's condition: HostRead(5), and the next `n` requests are left out unless RESULT is OK (log 18). -/
  | skipUnlessOk (n : Nat)
  deriving DecidableEq, Repr

/-- What a host read returns: a register value, the RES_ERR payload, or a plane byte. -/
inductive HostValue where
  | word (v : Word)
  | payload (e : Option Terr)
  | byte (v : Byte)
  deriving DecidableEq, Repr

/-- Why the machine stops. The spec gives the block no fault: every error is a result code (R260). -/
inductive Fault where
  /-- Raised by the four host operations' meanings when they are asked for a block step while the micro-sequencer is not
  at a row of that operation's listing. The spec gives such a step no effect; no run from a legal state reaches one
  (log 3). Safe. -/
  | operationNotRunning
  deriving DecidableEq, Repr

/-- Why the model gives a step no meaning. -/
inductive Refusal where
  /-- Raised by exec's arms for an instruction that has no meaning yet. Safe. -/
  | notModelled (mnemonic : String)
  /-- Raised by step in a state whose configuration is not well formed: R10 "A model refuses any other configuration".
  Safe. -/
  | illFormedConfiguration
  /-- Raised by step when the byte to be sent as a command is one of the 227 undefined values: the block never sends one
  (R111, U24 "refuse"). Only a byte placed at the model's own `bench` field can be one (log 14). Safe. -/
  | undefinedCommand (command : Byte)
  deriving DecidableEq, Repr

/-- The block's state (R30), its configuration, and the model's own fields for the host, the Panel and the Transport. -/
structure State where
  /-- R9's open parameters; no step changes them (log 4). -/
  cfg : Config
  /-- OP, 8 bits (R32). -/
  op : Byte
  /-- ARG0, 32 bits (R32). -/
  arg0 : Word
  /-- ARG1, 32 bits (R32). -/
  arg1 : Word
  /-- STATUS.RUN (R32). -/
  run : Bool
  /-- STATUS.RES_VALID (R32). -/
  resValid : Bool
  /-- RESULT (R32, R106). -/
  result : ResultCode
  /-- RES_ERR: a payload, or `none` (R32, R107). -/
  resErr : Option Terr
  /-- PHASE (R38). -/
  phase : Phase
  /-- L_OP, the latched op code (R36). -/
  lOp : Byte
  /-- L_ARG0 (R36). -/
  lArg0 : Word
  /-- L_ARG1 (R36). -/
  lArg1 : Word
  /-- The micro-sequencer (R40). -/
  upc : Upc
  /-- The busy-wait's sub-state (R40). -/
  wst : Wst
  /-- PIX, the next plane byte a DP sends, 16 bits (R40). -/
  pix : BitVec 16
  /-- EY, the encoder's row, 16 bits (R41). -/
  ey : BitVec 16
  /-- EBX, the encoder's byte column, 16 bits (R41). -/
  ebx : BitVec 16
  /-- LVL[RST] (R43). -/
  lvlRst : Lvl
  /-- LVL[CS] (R43). -/
  lvlCs : Lvl
  /-- LVL[DC] (R43). -/
  lvlDc : Lvl
  /-- BSAMPLE (R44). -/
  bsample : Lvl
  /-- PW, the white-plane: the bytes written since power-on (R45, log 8). -/
  pw : List Host.Cell
  /-- PR, the red-plane (R45, log 8). -/
  pr : List Host.Cell
  /-- The trace, oldest event first (R46). -/
  trace : List Event
  /-- MODEL's own: the image source presented (R80, log 9). -/
  img : Image
  /-- MODEL's own: the image was changed while the running ENCODE ran (R312, log 10). -/
  imgDisturbed : Bool
  /-- MODEL's own: the number of such changes so far (log 10). -/
  imgEpoch : Nat
  /-- MODEL's own: the Transport's next answers; after them, free values (R266, log 5). -/
  answers : List Answer
  /-- MODEL's own: how many answers have been drawn (log 5). -/
  answerCtr : Nat
  /-- MODEL's own: the Panel's next BUSY levels; after them, free values (R197, log 5). -/
  samples : List Level
  /-- MODEL's own: how many levels have been drawn (log 5). -/
  sampleCtr : Nat
  /-- MODEL's own: host writes that race the running RENDER (R311, log 11). -/
  races : List Race
  /-- MODEL's own: how many race choices have been made (log 11). -/
  raceCtr : Nat
  /-- MODEL's own: the host's next requests and the turns of the block (R271, log 1). -/
  inputs : List HostReq
  /-- MODEL's own: what the last host read returned (log 19). -/
  lastRead : Option HostValue
  /-- MODEL's own: a command byte placed at the wire port from outside any listing; no step sets it (log 14). -/
  bench : Option Byte
  deriving DecidableEq, Repr

/-- No image is presented: width 0 and height 0 (DESIGN CHOICE, log 9). -/
def Image.absent : Image where
  width := 0#16
  height := 0#16
  pixels := []
  background := 0x00#8

/-- The state after power-on: R51's values, R9's defaults, and for the model's own fields an empty environment. The
latched operands are 0 (R51 "unspecified; never read before a START writes them": DESIGN CHOICE, log 12). -/
def State.reset : State where
  cfg := Config.standard
  op := 0x00#8
  arg0 := 0#32
  arg1 := 0#32
  run := false
  resValid := false
  result := .ok
  resErr := none
  phase := .poweredOff
  lOp := 0x00#8
  lArg0 := 0#32
  lArg1 := 0#32
  upc := ⟨.none, 0⟩
  wst := .cmd
  pix := 0#16
  ey := 0#16
  ebx := 0#16
  lvlRst := .unknown
  lvlCs := .unknown
  lvlDc := .unknown
  bsample := .unknown
  pw := []
  pr := []
  trace := []
  img := Image.absent
  imgDisturbed := false
  imgEpoch := 0
  answers := []
  answerCtr := 0
  samples := []
  sampleCtr := 0
  races := []
  raceCtr := 0
  inputs := []
  lastRead := none
  bench := none

end Sys2Proof.Machine
end

