-- ==== Sys2Proof/Machine/Memory.lean ====
section
/-! DEFINITION. A byte memory as a list of (address, byte) pairs, addresses strictly rising (20_memory.md R70 to R74).
The planes list the bytes written since power-on, an image source the pixels that differ from its background. -/

namespace Sys2Proof.Machine

/-- The byte listed at an address. -/
def Memory.lookup : List Host.Cell → Nat → Option Byte
  | [], _ => none
  | (b, v) :: rest, a => if a = b then some v else Memory.lookup rest a

/-- The memory with a byte listed at an address, addresses kept rising. -/
def Memory.insert : List Host.Cell → Nat → Byte → List Host.Cell
  | [], a, v => [(a, v)]
  | (b, w) :: rest, a, v =>
    if a < b then (a, v) :: (b, w) :: rest
    else if a = b then (a, v) :: rest
    else (b, w) :: Memory.insert rest a v

/-- Addresses rise strictly, from `lo` up to below `hi`. -/
def Memory.between (hi : Nat) : Nat → List Host.Cell → Bool
  | _, [] => true
  | lo, (a, _) :: rest => decide (lo ≤ a ∧ a < hi) && Memory.between hi (a + 1) rest

/-- The canonical form of a memory of `size` bytes: addresses strictly rising and inside it. An unlisted byte has no value
of the memory's own (a plane's is its free power-on value), so no entry can equal it (log 8). -/
def Memory.wf (size : Nat) (m : List Host.Cell) : Bool := Memory.between size 0 m

/-- The canonical form of an image: pixels listed in rising order, inside the image, none equal to the background. -/
def Image.wf (img : Image) : Bool :=
  Memory.wf (img.width.toNat * img.height.toNat) img.pixels && img.pixels.all (fun c => decide (c.2 ≠ img.background))

/-- The intensity of pixel (x, y) of an image (R77). -/
def Image.pixel (img : Image) (x y : Nat) : Byte :=
  (Memory.lookup img.pixels (y * img.width.toNat + x)).getD img.background

/-- The cells of a plane. -/
def State.plane (s : State) : Plane → List Host.Cell
  | .pw => s.pw
  | .pr => s.pr

/-- `MemRead(P, i, 1)` (R15): the byte written last, or the plane's free power-on value (R303, U11). -/
def State.planeByte (s : State) (p : Plane) (i : Nat) : Byte :=
  (Memory.lookup (s.plane p) i).getD (Config.powerOnByte p i)

/-- `MemWrite(P, i, 1, v)` (R15); an index at or past PLANE_BYTES is ignored (R74). -/
def State.setPlaneByte (s : State) (p : Plane) (i : Nat) (v : Byte) : State :=
  if i < Config.planeBytes then
    match p with
    | .pw => { s with pw := Memory.insert s.pw i v }
    | .pr => { s with pr := Memory.insert s.pr i v }
  else s

/-- `ImgPixel(x, y)`: the presented image's answer, or a free value once the image was changed while the ENCODE runs
(R80, R312, U17, log 10). -/
def State.pixel (s : State) (x y : Nat) : Byte :=
  if s.imgDisturbed then Config.freePixel s.imgEpoch x y else s.img.pixel x y

end Sys2Proof.Machine
end

