-- ==== Sys2Proof/Machine/Operands.lean ====
section
/-! DEFINITION. The operand forms: the latched operands of a running operation (30_encoding.md R103, R104; 10_state.md
R41), the sequence an op code selects (41_controller.md R170), and the position of a pixel (20_memory.md R71). The fields
themselves are read by Decode.lean's `operandLow` and `operandHigh`. -/

namespace Sys2Proof.Machine

/-- `ELOW = L_ARG0[7:0]` (R41). -/
def State.eLow (s : State) : Byte := operandLow s.lArg0

/-- `EHIGH = L_ARG0[15:8]` (R41). -/
def State.eHigh (s : State) : Byte := operandHigh s.lArg0

/-- `dispatch(L_OP)`: the micro-sequence an accepted START enters (R170). -/
def dispatch (op : Byte) : Seq :=
  match decodeHost op 0#32 0#32 with
  | .ok (.encode _ _) => .enc
  | .ok .init => .init
  | .ok (.render _ _) => .render
  | .ok .sleep => .sleep
  | _ => .rsv

/-- `idx(x, y) = y * (W / 8) + x / 8` (R71). -/
def pixelIndex (x y : Nat) : Nat := y * Config.bytesPerRow + x / 8

/-- `0x80 >> o`, the bit of the pixel at offset `o` of its group (R150). -/
def offsetMask (o : Nat) : Byte := 0x80#8 >>> o

/-- `mask(x) = 0x80 >> (x mod 8)` (R71). -/
def pixelMask (x : Nat) : Byte := offsetMask (x % 8)

/-- The byte index of the group at the encoder's cursor, `EY * BPR + EBX` (R146). -/
def State.cursorIndex (s : State) : Nat := s.ey.toNat * Config.bytesPerRow + s.ebx.toNat

end Sys2Proof.Machine
end

