-- ==== Sys2Proof/Machine/Flags.lean ====
section
/-! DEFINITION. The status and code computations: STATUS, RESULT and PHASE as the host reads them (10_state.md R32, R38;
30_encoding.md R106), and the class of an intensity (40_encoder.md R144). -/

namespace Sys2Proof.Machine

/-- The PHASE encoding of R38. -/
def Phase.code : Phase → Word
  | .poweredOff => 0
  | .resetting => 1
  | .initializing => 2
  | .idle => 3
  | .transmitting => 4
  | .refreshing => 5
  | .sleeping => 6

/-- The RESULT codes of R106. -/
def ResultCode.code : ResultCode → Word
  | .ok => 0x00
  | .dimensionMismatch => 0x01
  | .bufferSizeMismatch => 0x02
  | .illegalStateTransition => 0x03
  | .transportError => 0x04
  | .reservedOperation => 0x05

/-- A flag as a bit at a position of a register. -/
def flagAt (b : Bool) (pos : Nat) : Word := if b then 1#32 <<< pos else 0#32

/-- STATUS: RUN at bit 0, RES_VALID at bit 1, bits 7..2 read 0 (R32). -/
def State.status (s : State) : Word := flagAt s.run 0 ||| flagAt s.resValid 1

/-- The value of a host register, by index; CTRL and every index from 8 up read 0 (R32, R34, R35). -/
def State.regValue (s : State) (idx : Nat) : HostValue :=
  match idx with
  | 0 => .word (s.op.setWidth 32)
  | 1 => .word s.arg0
  | 2 => .word s.arg1
  | 4 => .word s.status
  | 5 => .word s.result.code
  | 6 => .payload s.resErr
  | 7 => .word s.phase.code
  | _ => .word 0#32

/-- `classify(i, low, high)` (R144): unsigned comparisons, and OVERLAP_CLASS where both DRV's BLACK and WHITE conditions
hold (R145). -/
def classify (overlap : OverlapClass) (i low high : Byte) : PixelClass :=
  let b := decide (i.toNat < low.toNat)
  let w := decide (high.toNat ≤ i.toNat)
  if b && w then overlap.toClass
  else if b then .black
  else if w then .white
  else .red

end Sys2Proof.Machine
end

