-- ==== Sys2Proof/Machine/Ops.lean ====
section
/-! DEFINITION. The named operations every step is made of: events, the collaborators' answers, the lines, START and
completion (10_state.md R36, R37), the abort (60_exceptions.md R268) that is this block's taking of an error, and block
reset (70_reset_and_hazards.md R300). -/

namespace Sys2Proof.Machine

/-- `emit(ev)`: appends to the trace (R15, R46). -/
def State.emit (s : State) (ev : Event) : State := { s with trace := s.trace ++ [ev] }

/-- The Transport's answer to the next call (R266): the next one State lists, else a free value (log 5). -/
def State.nextAnswer (s : State) : Answer :=
  match s.answers with
  | a :: _ => a
  | [] => Config.freeAnswer s.answerCtr

/-- The state after the next answer is drawn. -/
def State.popAnswer (s : State) : State :=
  { s with answers := s.answers.tail, answerCtr := s.answerCtr + 1 }

/-- The BUSY level at the next sample (R197): the next one State lists, else a free value (log 5). -/
def State.nextSample (s : State) : Level :=
  match s.samples with
  | v :: _ => v
  | [] => Config.freeSample s.sampleCtr

/-- The state after the next BUSY level is drawn. -/
def State.popSample (s : State) : State :=
  { s with samples := s.samples.tail, sampleCtr := s.sampleCtr + 1 }

/-- The level the block last drove an output line to (R43). BUSY is an input and has none (R42). -/
def State.lvl (s : State) : Line → Lvl
  | .rst => s.lvlRst
  | .cs => s.lvlCs
  | .dc => s.lvlDc
  | .busy => .unknown

/-- `LVL[l] <- v` (R43). -/
def State.setLvl (s : State) (l : Line) (v : Lvl) : State :=
  match l with
  | .rst => { s with lvlRst := v }
  | .cs => { s with lvlCs := v }
  | .dc => { s with lvlDc := v }
  | .busy => s

/-- `upc <- (seq, k + 1)` (R40). -/
def State.advance (s : State) : State := { s with upc := ⟨s.upc.seq, s.upc.k + 1⟩ }

/-- `PHASE <- p` (R39: written by PH, by INIT's abort and by block reset only). -/
def State.setPhase (s : State) (p : Phase) : State := { s with phase := p }

/-- An accepted START (R36): the operands are latched, RUN rises, RES_VALID falls, the micro-sequencer is dispatched. The
model's marks of the operation before it (a changed image, racing writes) are forgotten. -/
def State.start (s : State) : State :=
  { s with
    lOp := s.op
    lArg0 := s.arg0
    lArg1 := s.arg1
    run := true
    resValid := false
    upc := ⟨dispatch s.op, 0⟩
    imgDisturbed := false
    races := [] }

/-- Completion with a result code and a payload (R37). -/
def State.complete (s : State) (c : ResultCode) (e : Option Terr) : State :=
  { s with result := c, resErr := e, resValid := true, run := false, upc := ⟨.none, 0⟩ }

/-- INIT's abort writes PHASE and emits its event; RENDER's and SLEEP's leave it (R268, R180, R184, R187). -/
def State.abortPhase (s : State) : State :=
  if s.upc.seq = .init then (s.setPhase .resetting).emit (.phase .resetting) else s

/-- `abort(e)` (R268): taking a transport error, in the step of the failing call and after its event. -/
def State.abort (s : State) (e : Terr) : State :=
  State.complete { s.abortPhase with pix := 0#16, wst := .cmd } .transportError (some e)

/-- What a call's answer leads to: go on, or abort with the payload (R174, R268). -/
def State.afterCall (s : State) (r : Answer) (goOn : State → State) (onFail : State → State) : State :=
  match r with
  | .ok => goOn s
  | .fail e => (onFail s).abort e

/-- Block reset (R300): R51's values for the block's registers, lines and cursor; the planes (R303) and the trace (R301)
stay, and so does everything outside the block. No event is emitted and no line is driven (R302). -/
def State.blockReset (s : State) : State :=
  { s with
    op := State.reset.op
    arg0 := State.reset.arg0
    arg1 := State.reset.arg1
    run := State.reset.run
    resValid := State.reset.resValid
    result := State.reset.result
    resErr := State.reset.resErr
    phase := State.reset.phase
    lOp := State.reset.lOp
    lArg0 := State.reset.lArg0
    lArg1 := State.reset.lArg1
    upc := State.reset.upc
    wst := State.reset.wst
    pix := State.reset.pix
    ey := State.reset.ey
    ebx := State.reset.ebx
    lvlRst := State.reset.lvlRst
    lvlCs := State.reset.lvlCs
    lvlDc := State.reset.lvlDc
    bsample := State.reset.bsample }

end Sys2Proof.Machine
end

