-- ==== Sys2Proof/Machine/Listing.lean ====
section
/-! DEFINITION. The micro-operations (41_controller.md R174, 40_encoder.md R140) and the fixed listings of the four
operations (R140, R178, R182, R186). No host write or plane write can change a listing (20_memory.md R89). -/

namespace Sys2Proof.Machine

/-- The micro-operations, with the operands their listing gives them. -/
inductive MicroOp where
  | ph (p : Phase)
  | wl (l : Line) (v : Level)
  | dl (ms : Nat)
  | cm (b : Byte)
  | dt (b : Byte)
  | dp (p : Plane)
  | wi
  | rchk (lw lr : Word)
  | schk
  | fin
  | echk
  | egrp (low high : Byte)
  | efin
  deriving DecidableEq, Repr

/-- The ENC sequence (R140). -/
def encListing (low high : Byte) : List MicroOp := [.echk, .egrp low high, .efin]

/-- The INIT listing, k = 0 to 23 (R178). -/
def initListing (c : Config) : List MicroOp :=
  [.ph .resetting, .wl .rst .low, .dl c.tRstMs, .wl .rst .high, .dl c.tRstMs, .ph .initializing,
   .cm 0x01#8, .dt 0x07#8, .dt 0x07#8, .dt 0x3F#8, .dt 0x3F#8,
   .cm 0x04#8, .wi,
   .cm 0x00#8, .dt 0x0F#8,
   .cm 0x15#8, .dt 0x00#8,
   .cm 0x50#8, .dt 0x11#8, .dt 0x07#8,
   .cm 0x60#8, .dt 0x22#8,
   .ph .idle, .fin]

/-- The RENDER listing, k = 0 to 11 (R182). -/
def renderListing (lw lr : Word) : List MicroOp :=
  [.rchk lw lr, .ph .transmitting, .cm 0x10#8, .dp .pw, .cm 0x13#8, .dp .pr, .ph .refreshing, .cm 0x12#8,
   .dl Config.tRefreshMs, .wi, .ph .idle, .fin]

/-- The SLEEP listing, k = 0 to 6 (R186). -/
def sleepListing : List MicroOp := [.schk, .cm 0x02#8, .wi, .cm 0x07#8, .dt 0xA5#8, .ph .sleeping, .fin]

/-- The listing the micro-sequencer is in, with the latched operands (R40, R41, R103). -/
def State.listing (s : State) : List MicroOp :=
  match s.upc.seq with
  | .none => []
  | .enc => encListing s.eLow s.eHigh
  | .init => initListing s.cfg
  | .render => renderListing s.lArg0 s.lArg1
  | .sleep => sleepListing
  | .rsv => []

/-- The micro-operation at `upc` (R40). -/
def State.row (s : State) : Option MicroOp := s.listing[s.upc.k]?

/-- The command byte of the exchange a listing is in after its first `n` rows: the last CM among them (R108, R109). -/
def openedBy : List MicroOp → Option Byte → Option Byte
  | [], b => b
  | .cm b :: rest, _ => openedBy rest (some b)
  | _ :: rest, b => openedBy rest b

/-- The command byte of the exchange that the row at `upc` belongs to. -/
def State.exchange (s : State) : Option Byte := openedBy (s.listing.take (s.upc.k + 1)) none

end Sys2Proof.Machine
end

