-- ==== Sys2Proof/Machine/Encoder.lean ====
section
/-! DEFINITION. The frame encoder's micro-operations ECHK, EGRP and EFIN (40_encoder.md R143, R146, R151), and the frame
function the steps must equal (R153). -/

namespace Sys2Proof.Machine

/-- The effect of a pixel's class on the white byte and the red byte of its group (R146, R148). -/
def putPixel (c : PixelClass) (o : Nat) (wr : Byte × Byte) : Byte × Byte :=
  match c with
  | .black => (wr.1 &&& ~~~offsetMask o, wr.2)
  | .red => (wr.1, wr.2 ||| offsetMask o)
  | .white => wr

/-- The byte pair of a group, from the classes of its pixels: seeds 0xFF and 0x00, offsets 0 to 7 in order (R146, R149). -/
def packGroup (cls : Nat → PixelClass) : Byte × Byte :=
  [0, 1, 2, 3, 4, 5, 6, 7].foldl (fun wr o => putPixel (cls o) o wr) (0xFF#8, 0x00#8)

/-- The byte pair EGRP forms at the cursor (R146). -/
def State.groupBytes (s : State) (low high : Byte) : Byte × Byte :=
  packGroup fun o => classify s.cfg.overlap (s.pixel (8 * s.ebx.toNat + o) s.ey.toNat) low high

/-- ECHK (R143): on a mismatch of the image's size the operation completes, else the cursor is cleared. -/
def State.echk (s : State) : State :=
  if s.img.width.toNat ≠ Config.width ∨ s.img.height.toNat ≠ Config.height then s.complete .dimensionMismatch none
  else State.advance { s with ey := 0#16, ebx := 0#16 }

/-- The cursor's step after a group: the next column, or the next row; and after the last row the next
micro-operation (R146). -/
def State.nextGroup (s : State) : State :=
  let s1 := { s with ebx := s.ebx + 1#16 }
  let s2 := if s1.ebx.toNat = Config.bytesPerRow then { s1 with ebx := 0#16, ey := s1.ey + 1#16 } else s1
  if s2.ey.toNat = Config.height then s2.advance else s2

/-- EGRP (R146): both plane bytes of the group at the cursor in one step (R75), and the cursor's step. -/
def State.egrp (s : State) (low high : Byte) : State :=
  let wr := s.groupBytes low high
  let i := s.cursorIndex
  ((s.setPlaneByte .pw i wr.1).setPlaneByte .pr i wr.2).nextGroup

/-- EFIN (R151). -/
def State.efin (s : State) : State := s.complete .ok none

/-- `OR over o in 0..7 with q o of (0x80 >> o)` (R153). -/
def orMask (q : Nat → Bool) : Byte :=
  [0, 1, 2, 3, 4, 5, 6, 7].foldl (fun acc o => if q o then acc ||| offsetMask o else acc) 0x00#8

/-- `encodeFrame(img, low, high).PW[i]` and `.PR[i]`, the whole-frame function of R153, for an image given by its pixels. -/
def encodeFrame (overlap : OverlapClass) (img : Nat → Nat → Byte) (low high : Byte) (p : Plane) (i : Nat) : Byte :=
  let cls := fun o =>
    classify overlap (img (8 * (i % Config.bytesPerRow) + o) (i / Config.bytesPerRow)) low high
  match p with
  | .pw => 0xFF#8 &&& ~~~orMask fun o => decide (cls o = .black)
  | .pr => orMask fun o => decide (cls o = .red)

/-- The class a pixel's two plane bits stand for; the pair white 0, red 1 has no class (R73, N21). -/
def classOfBits (w r : Bool) : Option PixelClass :=
  match w, r with
  | false, false => some .black
  | true, true => some .red
  | true, false => some .white
  | false, true => none

/-- The class of pixel (x, y) read back from the planes (R73). -/
def State.decodePixel (s : State) (x y : Nat) : Option PixelClass :=
  classOfBits (decide (s.planeByte .pw (pixelIndex x y) &&& pixelMask x ≠ 0x00#8))
    (decide (s.planeByte .pr (pixelIndex x y) &&& pixelMask x ≠ 0x00#8))

end Sys2Proof.Machine
end

