-- ==== Sys2Proof/Machine/Bus.lean ====
section
/-! DEFINITION. The controller's micro-operations on the collaborators: lines, delays, command and data bytes, plane
bytes and the busy-wait (41_controller.md R190 to R196), with the byte framing of 20_memory.md R82. -/

namespace Sys2Proof.Machine

/-- `PH(p)` (R190). -/
def State.ph (s : State) (p : Phase) : State := ((s.setPhase p).emit (.phase p)).advance

/-- `WL(l, v)` (R191): the line's level is `v` on ok and unknown on failure. -/
def State.wl (s : State) (l : Line) (v : Level) : State :=
  (s.popAnswer.emit (.line (s.cfg.lineId l) v s.nextAnswer)).afterCall s.nextAnswer
    (fun t => (t.setLvl l (.known v)).advance) (fun t => t.setLvl l .unknown)

/-- `DL(ms)` (R192): the delay cannot fail and is an event (R320). -/
def State.dl (s : State) (ms : Nat) : State := (s.emit (.delay ms)).advance

/-- Where the micro-sequencer goes once command `b` is out: past the CM row that sends it (R193), or from the busy-wait's
W_CMD to its W_SAMPLE when `b` is GET_STATUS (R196). A command no row at `upc` sends moves nothing. -/
def State.commandSent (s : State) (b : Byte) : State :=
  match s.row with
  | some (.cm c) => if b = c then s.advance else s
  | some .wi => if s.wst = .cmd ∧ b = 0x71#8 then { s with wst := .sample } else s
  | _ => s

/-- `CM(b)` and the W_CMD sub-step: `SendCmd(b)`, DC low for the byte (R82, R193, R196, R216). -/
def State.cm (s : State) (b : Byte) : State :=
  (s.popAnswer.emit (.cmd b s.nextAnswer)).afterCall s.nextAnswer
    (fun t => (t.setLvl .dc (.known .low)).commandSent b) (fun t => t.setLvl .dc .unknown)

/-- `DT(b)`: `SendData(b)`, DC high for the byte (R82, R193). -/
def State.dt (s : State) (b : Byte) : State :=
  (s.popAnswer.emit (.data b s.nextAnswer)).afterCall s.nextAnswer
    (fun t => (t.setLvl .dc (.known .high)).advance) (fun t => t.setLvl .dc .unknown)

/-- The byte a DP reads at an index: the plane's byte, or its value before a host write that races the running RENDER, as
the write's free choice has it (R86, R311, log 11). -/
def State.racedByte (s : State) (p : Plane) (i : Nat) : Byte :=
  s.races.foldl (fun cur r => if r.plane = p ∧ r.index = i ∧ Config.freeRace r.choice = true then r.old else cur)
    (s.planeByte p i)

/-- PIX's step after a byte is sent (R194). -/
def State.nextByte (s : State) : State :=
  let s1 := { s with pix := s.pix + 1#16 }
  if s1.pix.toNat = Config.planeBytes then State.advance { s1 with pix := 0#16 } else s1

/-- `DP(P)` (R194): one byte of the plane a step. -/
def State.dp (s : State) (p : Plane) : State :=
  let b := s.racedByte p s.pix.toNat
  (s.popAnswer.emit (.data b s.nextAnswer)).afterCall s.nextAnswer
    (fun t => (t.setLvl .dc (.known .high)).nextByte) (fun t => t.setLvl .dc .unknown)

/-- The W_SAMPLE sub-step's use of a level `v` (R196): a busy level loops, by W_DELAY when POLL_DELAY_MS > 0 (R199);
another level exits the wait. -/
def State.sampled (s : State) (v : Level) : State :=
  let s1 := { s with bsample := .known v }
  if v = s.cfg.busyActive then { s1 with wst := if 0 < s.cfg.pollDelayMs then .delay else .cmd }
  else State.advance { s1 with wst := .cmd }

/-- The outcome of `ReadLine(BUSY)`: the Transport's answer, with the Panel's level when it is ok (R18, R197, R266). -/
def State.sampleAnswer (s : State) : SampleAnswer :=
  match s.nextAnswer with
  | .ok => .ok s.nextSample
  | .fail e => .fail e

/-- The W_SAMPLE sub-step (R196). A failed sample leaves BSAMPLE as it was. -/
def State.wiSample (s : State) : State :=
  let ev := Event.sample (s.cfg.lineId .busy) s.sampleAnswer
  match s.nextAnswer with
  | .ok => (s.popAnswer.popSample.emit ev).sampled s.nextSample
  | .fail e => (s.popAnswer.emit ev).abort e

/-- The W_DELAY sub-step (R196, R199). -/
def State.wiDelay (s : State) : State :=
  let s1 := s.emit (.delay s.cfg.pollDelayMs)
  { s1 with wst := .cmd }

/-- `WI`: one sub-step of the busy-wait (R196). There is no timeout (R198). -/
def State.wi (s : State) : State :=
  match s.wst with
  | .cmd => s.cm 0x71#8
  | .sample => s.wiSample
  | .delay => s.wiDelay

/-- `RCHK` (R183): the phase, then the declared lengths, before any collaborator is called. -/
def State.rchk (s : State) (lw lr : Word) : State :=
  if s.phase ≠ .idle then s.complete .illegalStateTransition none
  else if lw.toNat ≠ Config.planeBytes ∨ lr.toNat ≠ Config.planeBytes then s.complete .bufferSizeMismatch none
  else State.advance { s with pix := 0#16 }

/-- `SCHK` (R187). -/
def State.schk (s : State) : State :=
  if s.phase ≠ .idle then s.complete .illegalStateTransition none else s.advance

/-- `FIN` (R195). -/
def State.fin (s : State) : State := s.complete .ok none

/-- One micro-operation (R174, R140). -/
def State.micro (s : State) : MicroOp → State
  | .ph p => s.ph p
  | .wl l v => s.wl l v
  | .dl ms => s.dl ms
  | .cm b => s.cm b
  | .dt b => s.dt b
  | .dp p => s.dp p
  | .wi => s.wi
  | .rchk lw lr => s.rchk lw lr
  | .schk => s.schk
  | .fin => s.fin
  | .echk => s.echk
  | .egrp low high => s.egrp low high
  | .efin => s.efin

end Sys2Proof.Machine
end

