-- ==== Sys2Proof/Machine/HostOps.lean ====
section
/-! DEFINITION. The meanings of the four host operations (30_encoding.md R101): the next block step of the operation, the
row of its listing at `upc` (40_encoder.md R141; 41_controller.md R177, R181, R185). -/

namespace Sys2Proof.Machine

/-- A block step of the operation whose micro-sequence is `seq` and whose listing is `rows`: the micro-operation at `upc`.
An operation the micro-sequencer is not in has no block step to take (log 3). -/
def State.operationStep (s : State) (seq : Seq) (rows : List MicroOp) : Host.Outcome State Fault Refusal :=
  if s.upc.seq = seq then
    match rows[s.upc.k]? with
    | some m => .next (s.micro m)
    | none => .fault .operationNotRunning
  else .fault .operationNotRunning

/-- ENCODE (R141): the step of the ENC sequence at `upc`, with its thresholds. -/
def execEncode (low high : Byte) (s : State) : Host.Outcome State Fault Refusal :=
  s.operationStep .enc (encListing low high)

/-- INIT (R177): the step of the INIT listing at `upc`. -/
def execInit (s : State) : Host.Outcome State Fault Refusal :=
  s.operationStep .init (initListing s.cfg)

/-- RENDER (R181): the step of the RENDER listing at `upc`, with its declared lengths. -/
def execRender (lw lr : Word) (s : State) : Host.Outcome State Fault Refusal :=
  s.operationStep .render (renderListing lw lr)

/-- SLEEP (R185): the step of the SLEEP listing at `upc`. -/
def execSleep (s : State) : Host.Outcome State Fault Refusal :=
  s.operationStep .sleep sleepListing

end Sys2Proof.Machine
end

