-- ==== Sys2Proof/Machine/WireCommands.lean ====
section
/-! DEFINITION. The meanings of the 29 wire commands (42_wire_commands.md R216 to R248): the command byte sent with DC
low, then, at the listing rows of its exchange (30_encoding.md R109), its data bytes with DC high. A send changes the
trace, LVL[DC] and the micro-sequencer; one that fails aborts the operation (R216). What the panel does is not modelled
(R217). The 17 commands no listing sends have the effect R216 and R193 give every command (log 15). -/

namespace Sys2Proof.Machine

/-- A step of the exchange of command `b`: the data byte or plane byte of the row at `upc` when that row belongs to the
exchange of `b`, else the command byte (R108, R109, log 16). -/
def State.exchangeStep (s : State) (b : Byte) : State :=
  match s.row with
  | some (.dt d) => if s.exchange = some b then s.dt d else s.cm b
  | some (.dp p) => if s.exchange = some b then s.dp p else s.cm b
  | _ => s.cm b

/-- `0x00` PANEL_SETTING (R220), data bytes 0x0F. -/
def execPanelSetting (s : State) : Host.Outcome State Fault Refusal := .next (s.exchangeStep 0x00#8)

/-- `0x01` POWER_SETTING (R221), data bytes 0x07 0x07 0x3F 0x3F. -/
def execPowerSetting (s : State) : Host.Outcome State Fault Refusal := .next (s.exchangeStep 0x01#8)

/-- `0x02` POWER_OFF (R222), no data bytes. -/
def execPowerOff (s : State) : Host.Outcome State Fault Refusal := .next (s.cm 0x02#8)

/-- `0x04` POWER_ON (R223), no data bytes. -/
def execPowerOn (s : State) : Host.Outcome State Fault Refusal := .next (s.cm 0x04#8)

/-- `0x07` DEEP_SLEEP (R224), data bytes 0xA5. -/
def execDeepSleep (s : State) : Host.Outcome State Fault Refusal := .next (s.exchangeStep 0x07#8)

/-- `0x10` DATA_START_TRANSMISSION_1 (R225), data bytes PW[0..47999]. -/
def execDataStartTransmission1 (s : State) : Host.Outcome State Fault Refusal := .next (s.exchangeStep 0x10#8)

/-- `0x11` DATA_STOP (R226), in no listing. -/
def execDataStop (s : State) : Host.Outcome State Fault Refusal := .next (s.cm 0x11#8)

/-- `0x12` DISPLAY_REFRESH (R227), no data bytes. -/
def execDisplayRefresh (s : State) : Host.Outcome State Fault Refusal := .next (s.cm 0x12#8)

/-- `0x13` DATA_START_TRANSMISSION_2 (R228), data bytes PR[0..47999]. -/
def execDataStartTransmission2 (s : State) : Host.Outcome State Fault Refusal := .next (s.exchangeStep 0x13#8)

/-- `0x15` CMD_15 (R229), data bytes 0x00. -/
def execCmd15 (s : State) : Host.Outcome State Fault Refusal := .next (s.exchangeStep 0x15#8)

/-- `0x20` LUT_FOR_VCOM (R230), in no listing. -/
def execLutForVcom (s : State) : Host.Outcome State Fault Refusal := .next (s.cm 0x20#8)

/-- `0x21` LUT_BLUE (R231), in no listing. -/
def execLutBlue (s : State) : Host.Outcome State Fault Refusal := .next (s.cm 0x21#8)

/-- `0x22` LUT_WHITE (R232), in no listing. -/
def execLutWhite (s : State) : Host.Outcome State Fault Refusal := .next (s.cm 0x22#8)

/-- `0x23` LUT_GRAY_1 (R233), in no listing. -/
def execLutGray1 (s : State) : Host.Outcome State Fault Refusal := .next (s.cm 0x23#8)

/-- `0x24` LUT_GRAY_2 (R234), in no listing. -/
def execLutGray2 (s : State) : Host.Outcome State Fault Refusal := .next (s.cm 0x24#8)

/-- `0x25` LUT_RED_0 (R235), in no listing. -/
def execLutRed0 (s : State) : Host.Outcome State Fault Refusal := .next (s.cm 0x25#8)

/-- `0x26` LUT_RED_1 (R236), in no listing. -/
def execLutRed1 (s : State) : Host.Outcome State Fault Refusal := .next (s.cm 0x26#8)

/-- `0x27` LUT_RED_2 (R237), in no listing. -/
def execLutRed2 (s : State) : Host.Outcome State Fault Refusal := .next (s.cm 0x27#8)

/-- `0x28` LUT_RED_3 (R238), in no listing. -/
def execLutRed3 (s : State) : Host.Outcome State Fault Refusal := .next (s.cm 0x28#8)

/-- `0x29` LUT_XON (R239), in no listing. -/
def execLutXon (s : State) : Host.Outcome State Fault Refusal := .next (s.cm 0x29#8)

/-- `0x30` PLL_CONTROL (R240), in no listing. -/
def execPllControl (s : State) : Host.Outcome State Fault Refusal := .next (s.cm 0x30#8)

/-- `0x50` VCOM_AND_DATA_INTERVAL_SETTING (R241), data bytes 0x11 0x07. -/
def execVcomAndDataIntervalSetting (s : State) : Host.Outcome State Fault Refusal := .next (s.exchangeStep 0x50#8)

/-- `0x60` TCON_SETTING (R242), data bytes 0x22. -/
def execTconSetting (s : State) : Host.Outcome State Fault Refusal := .next (s.exchangeStep 0x60#8)

/-- `0x61` TCON_RESOLUTION (R243), in no listing. -/
def execTconResolution (s : State) : Host.Outcome State Fault Refusal := .next (s.cm 0x61#8)

/-- `0x70` REVISION (R244), in no listing. -/
def execRevision (s : State) : Host.Outcome State Fault Refusal := .next (s.cm 0x70#8)

/-- `0x71` GET_STATUS (R245), no data bytes. -/
def execGetStatus (s : State) : Host.Outcome State Fault Refusal := .next (s.cm 0x71#8)

/-- `0x80` AUTO_MEASUREMENT_VCOM (R246), in no listing. -/
def execAutoMeasurementVcom (s : State) : Host.Outcome State Fault Refusal := .next (s.cm 0x80#8)

/-- `0x81` READ_VCOM_VALUE (R247), in no listing. -/
def execReadVcomValue (s : State) : Host.Outcome State Fault Refusal := .next (s.cm 0x81#8)

/-- `0x82` VCM_DC_SETTING (R248), in no listing. -/
def execVcmDcSetting (s : State) : Host.Outcome State Fault Refusal := .next (s.cm 0x82#8)

end Sys2Proof.Machine
end

