-- ==== Sys2Proof/Machine/Dispatch.lean ====
section
/-! DEFINITION. exec: one arm per constructor of Instr, each a direct call of that instruction's meaning. -/

namespace Sys2Proof.Machine

def exec (i : Instr) (s : State) : Host.Outcome State Fault Refusal :=
  match i with
  -- host operations (30_encoding.md R101)
  | .encode low high => Sys2Proof.Machine.execEncode low high s
  | .init => Sys2Proof.Machine.execInit s
  | .render lw lr => Sys2Proof.Machine.execRender lw lr s
  | .sleep => Sys2Proof.Machine.execSleep s
  -- wire commands (42_wire_commands.md)
  | .panelSetting => Sys2Proof.Machine.execPanelSetting s
  | .powerSetting => Sys2Proof.Machine.execPowerSetting s
  | .powerOff => Sys2Proof.Machine.execPowerOff s
  | .powerOn => Sys2Proof.Machine.execPowerOn s
  | .deepSleep => Sys2Proof.Machine.execDeepSleep s
  | .dataStartTransmission1 => Sys2Proof.Machine.execDataStartTransmission1 s
  | .dataStop => Sys2Proof.Machine.execDataStop s
  | .displayRefresh => Sys2Proof.Machine.execDisplayRefresh s
  | .dataStartTransmission2 => Sys2Proof.Machine.execDataStartTransmission2 s
  | .cmd15 => Sys2Proof.Machine.execCmd15 s
  | .lutForVcom => Sys2Proof.Machine.execLutForVcom s
  | .lutBlue => Sys2Proof.Machine.execLutBlue s
  | .lutWhite => Sys2Proof.Machine.execLutWhite s
  | .lutGray1 => Sys2Proof.Machine.execLutGray1 s
  | .lutGray2 => Sys2Proof.Machine.execLutGray2 s
  | .lutRed0 => Sys2Proof.Machine.execLutRed0 s
  | .lutRed1 => Sys2Proof.Machine.execLutRed1 s
  | .lutRed2 => Sys2Proof.Machine.execLutRed2 s
  | .lutRed3 => Sys2Proof.Machine.execLutRed3 s
  | .lutXon => Sys2Proof.Machine.execLutXon s
  | .pllControl => Sys2Proof.Machine.execPllControl s
  | .vcomAndDataIntervalSetting => Sys2Proof.Machine.execVcomAndDataIntervalSetting s
  | .tconSetting => Sys2Proof.Machine.execTconSetting s
  | .tconResolution => Sys2Proof.Machine.execTconResolution s
  | .revision => Sys2Proof.Machine.execRevision s
  | .getStatus => Sys2Proof.Machine.execGetStatus s
  | .autoMeasurementVcom => Sys2Proof.Machine.execAutoMeasurementVcom s
  | .readVcomValue => Sys2Proof.Machine.execReadVcomValue s
  | .vcmDcSetting => Sys2Proof.Machine.execVcmDcSetting s

end Sys2Proof.Machine
end

