-- ==== Sys2Proof/Machine/HostPort.lean ====
section
/-! DEFINITION. The host's steps: register and plane accesses, the image port, block reset (10_state.md R32 to R36;
20_memory.md R74, R80; 70_reset_and_hazards.md R300), and the expansion of host program lines into requests
(30_encoding.md R114 to R118). -/

namespace Sys2Proof.Machine

/-- HostWrite(idx, v) (R33, R34, R35): OP, ARG0 and ARG1 store the value truncated to their width; CTRL with `v[0] = 1` is
an accepted START unless RUN = 1; every other write is ignored. -/
def State.regWrite (s : State) (idx v : Nat) : State :=
  match idx with
  | 0 => { s with op := BitVec.ofNat 8 v }
  | 1 => { s with arg0 := BitVec.ofNat 32 v }
  | 2 => { s with arg1 := BitVec.ofNat 32 v }
  | 3 => if v % 2 = 1 ∧ s.run = false then s.start else s
  | _ => s

/-- HostRead(idx): the register's value, and no side effect on the block (R35). -/
def State.regRead (s : State) (idx : Nat) : State := { s with lastRead := some (s.regValue idx) }

/-- The byte an ENCODE writes to a plane at the group at its cursor. -/
def State.groupByte (s : State) (low high : Byte) : Plane → Byte
  | .pw => (s.groupBytes low high).1
  | .pr => (s.groupBytes low high).2

/-- The byte a running ENCODE is writing, when a plane index is the one at its cursor (R311). -/
def State.writing (s : State) (p : Plane) (i : Nat) : Option Byte :=
  match s.row with
  | some (.egrp low high) => if s.run = true ∧ i = s.cursorIndex then some (s.groupByte low high p) else none
  | _ => none

/-- A host read of a plane byte (R45): 0 past the end (R74); the old or the new value of the byte a running ENCODE is
writing (R86, R311, log 11); else the byte. -/
def State.hostPlaneRead (s : State) (p : Plane) (i : Nat) : State :=
  if i < Config.planeBytes then
    match s.writing p i with
    | some new =>
      let v := if Config.freeRace s.raceCtr = true then new else s.planeByte p i
      { s with lastRead := some (.byte v), raceCtr := s.raceCtr + 1 }
    | none => { s with lastRead := some (.byte (s.planeByte p i)) }
  else { s with lastRead := some (.byte 0x00#8) }

/-- A host write of a plane byte (R45): ignored past the end (R74); while a RENDER runs it races the step that sends the
byte (R86, R311, log 11). That a write while any other operation runs takes effect at once is a DESIGN CHOICE (log 11). -/
def State.hostPlaneWrite (s : State) (p : Plane) (i : Nat) (v : Byte) : State :=
  if i < Config.planeBytes then
    let s1 := s.setPlaneByte p i v
    if s.run = true ∧ s.upc.seq = .render then
      { s1 with races := ⟨p, i, s.planeByte p i, s.raceCtr⟩ :: s.races, raceCtr := s.raceCtr + 1 }
    else s1
  else s

/-- The host presents an image source (R80). Another one than before, while an ENCODE runs, is the change R312 forbids:
from then on that ENCODE's pixels are any value (U17, log 10). DESIGN CHOICE (log 29): the spec does not say whether presenting
a source that answers every query alike is a change; the model compares the plain data, so the same one again is no change,
and other cells or another background are one even where they stand for the same pixels. -/
def State.present (s : State) (img : Image) : State :=
  if s.run = true ∧ s.upc.seq = .enc ∧ img ≠ s.img then
    { s with img := img, imgDisturbed := true, imgEpoch := s.imgEpoch + 1 }
  else { s with img := img }

/-- One host step. The two requests that give the block its turn are settled by the block's step and do nothing here. -/
def State.hostStep (s : State) : HostReq → State
  | .block => s
  | .regWrite idx v => s.regWrite idx v
  | .regRead idx => s.regRead idx
  | .planeWrite p i v => s.hostPlaneWrite p i v
  | .planeRead p i => s.hostPlaneRead p i
  | .present img => s.present img
  | .blockReset => s.blockReset
  | .awaitIdle => s.regRead 4
  | .skipUnlessOk n =>
    let s1 := s.regRead 5
    { s1 with inputs := if s.result = .ok then s.inputs else s.inputs.drop n }

/-- The requests of a blocking call (R115). -/
def callRequests (op arg0 arg1 : Nat) : List HostReq :=
  [.regWrite 0 op, .regWrite 1 arg0, .regWrite 2 arg1, .regWrite 3 0x01, .awaitIdle]

/-- The requests a host program line expands to (R114, R115, R116, R118). -/
def expandLine : HostLine → List HostReq
  | .encode low high => callRequests 0x01 ((high <<< 8) ||| low) 0
  | .init => callRequests 0x02 0 0
  | .render lw lr => callRequests 0x03 lw lr
  | .sleep => callRequests 0x04 0 0
  | .raw op arg0 arg1 => callRequests op arg0 arg1
  | .display low high =>
    callRequests 0x01 ((high <<< 8) ||| low) 0 ++
      .skipUnlessOk 5 :: callRequests 0x03 Config.planeBytes Config.planeBytes

/-- A host program, queued behind what the host does already. -/
def State.load (s : State) (prog : List HostLine) : State :=
  { s with inputs := s.inputs ++ prog.flatMap expandLine }

end Sys2Proof.Machine
end

