-- ==== Sys2Proof/Machine/Fetch.lean ====
section
/-! DEFINITION. Which instruction a running block executes next (10_state.md R36, R40; 30_encoding.md R108), and where a
word must stand to be that instruction. -/

namespace Sys2Proof.Machine

/-- The word whose instruction the next block step runs: at a CM, DT or DP row the command byte of its exchange, at the
busy-wait's W_CMD the command byte of GET_STATUS, at every other row the latched host request (R36, R108, R196, log 3). -/
def State.fetch (s : State) : Encoded :=
  let request := Encoded.hostOp s.lOp s.lArg0 s.lArg1
  match s.row with
  | some (.cm b) => .wireCmd b
  | some (.dt _) => (s.exchange.map Encoded.wireCmd).getD request
  | some (.dp _) => (s.exchange.map Encoded.wireCmd).getD request
  | some .wi => if s.wst = .cmd then .wireCmd 0x71#8 else request
  | _ => request

/-- The listing row that sends a command: the operation's OP value and the micro-sequencer's position (R178, R182, R186);
GET_STATUS is sent at the W_CMD of a busy-wait, INIT's among them (R196, R200). -/
def commandRow (command : Byte) : Option (Byte × Upc) :=
  match command.toNat with
  | 0x01 => some (0x02#8, ⟨.init, 6⟩)
  | 0x04 => some (0x02#8, ⟨.init, 11⟩)
  | 0x71 => some (0x02#8, ⟨.init, 12⟩)
  | 0x00 => some (0x02#8, ⟨.init, 13⟩)
  | 0x15 => some (0x02#8, ⟨.init, 15⟩)
  | 0x50 => some (0x02#8, ⟨.init, 17⟩)
  | 0x60 => some (0x02#8, ⟨.init, 20⟩)
  | 0x10 => some (0x03#8, ⟨.render, 2⟩)
  | 0x13 => some (0x03#8, ⟨.render, 4⟩)
  | 0x12 => some (0x03#8, ⟨.render, 7⟩)
  | 0x02 => some (0x04#8, ⟨.sleep, 1⟩)
  | 0x07 => some (0x04#8, ⟨.sleep, 3⟩)
  | _ => none

/-- The state in which an operation's START has been accepted with these words, and the next turn is the block's (R36,
log 14). -/
def State.placeRequest (s : State) (op : Byte) (arg0 arg1 : Word) : State :=
  { s with
    lOp := op
    lArg0 := arg0
    lArg1 := arg1
    run := true
    resValid := false
    upc := ⟨dispatch op, 0⟩
    wst := .cmd
    inputs := .block :: s.inputs
    bench := none }

/-- The state in which the micro-sequencer is at the row that sends a command, or, for a command in no listing, in which
the command byte stands at the model's bench port (log 14). -/
def State.placeCommand (s : State) (command : Byte) : State :=
  match commandRow command with
  | some (op, upc) => { s.placeRequest op 0#32 0#32 with upc := upc }
  | none => { s with bench := some command }

/-- The state whose next step runs the instruction that `decodeTableWord` reads from the word (log 13, log 14). -/
def State.placeWord (s : State) (nbits w : Nat) : State :=
  let v := w % 2 ^ nbits
  let hw := hostWords v
  match decodeHost hw.1 hw.2.1 hw.2.2 with
  | .ok _ => s.placeRequest hw.1 hw.2.1 hw.2.2
  | .error _ =>
    if nbits ≤ 8 ∧ (decodeWire (BitVec.ofNat 8 v)).toOption.isSome then s.placeCommand (BitVec.ofNat 8 v)
    else s.placeRequest hw.1 hw.2.1 hw.2.2

end Sys2Proof.Machine
end

