-- ==== Sys2Proof/Machine/Block.lean ====
section
/-! DEFINITION. One turn of the block and one turn of whoever is next (00_scope.md R4, R18; 60_exceptions.md R271). -/

namespace Sys2Proof.Machine

/-- What a decoded word does: an instruction is executed, a reserved operation completes with its code in one step (R102,
R264), and no byte outside the 29 commands is ever sent (R111, U24). -/
def State.runDecoded (s : State) : Decoded → Host.Outcome State Fault Refusal
  | .ok i => exec i s
  | .error (.reservedOperation _) => .next (s.complete .reservedOperation none)
  | .error (.undefinedCommand b) => .refused (.undefinedCommand b)

/-- The block's turn: a running block executes the instruction it fetches; a block that does not run does nothing (R304). -/
def State.blockStep (s : State) : Host.Outcome State Fault Refusal :=
  if s.run = true then s.runDecoded (decode s.fetch) else .next s

/-- One turn, in the order `inputs` gives (R271): a host request, or the block's step. With nothing queued it is the
block's turn. While RUN = 1 the poll loop of R115 leaves every turn to the block (log 18). -/
def State.turn (s : State) : Host.Outcome State Fault Refusal :=
  match s.inputs with
  | [] => s.blockStep
  | .block :: rest => State.blockStep { s with inputs := rest }
  | .awaitIdle :: rest => if s.run = true then s.blockStep else .next (State.hostStep { s with inputs := rest } .awaitIdle)
  | r :: rest => .next (State.hostStep { s with inputs := rest } r)

/-- The model's own bench port first (log 14), then the turn. -/
def State.benchOrTurn (s : State) : Host.Outcome State Fault Refusal :=
  match s.bench with
  | some b => State.runDecoded { s with bench := none } (decodeWire b)
  | none => s.turn

end Sys2Proof.Machine
end

