-- ==== Sys2Proof/Machine/Step.lean ====
section
/-! DEFINITION. The step of the machine, and the placing of an instruction where step takes its next one. -/

namespace Sys2Proof.Machine

/-- One step: a configuration that is not well formed is refused (R10); else one agent takes its step (R18, R271). -/
def step (s : State) : Host.Outcome State Fault Refusal :=
  if s.cfg.wf then s.benchOrTurn else .refused .illFormedConfiguration

/-- The state whose very next step runs the instruction whose bits are `w` (log 13, log 14). -/
def State.withFetchWord (s : State) (nbits w : Nat) : State := s.placeWord nbits w

end Sys2Proof.Machine
end

