-- ==== Sys2Proof/Laws/State.lean ====
section
/-! SUPPORT. What each named update of State does to each field, one lemma per field, all by rfl: later proofs rewrite by
these and never unfold an update. The updates that choose their field (setLvl, setPlaneByte) have lemmas for the fields
they leave. -/

namespace Sys2Proof.Machine

variable (s : State)

@[simp] theorem State.emit_cfg (ev : Event) : (s.emit ev).cfg = s.cfg := rfl
@[simp] theorem State.emit_op (ev : Event) : (s.emit ev).op = s.op := rfl
@[simp] theorem State.emit_arg0 (ev : Event) : (s.emit ev).arg0 = s.arg0 := rfl
@[simp] theorem State.emit_arg1 (ev : Event) : (s.emit ev).arg1 = s.arg1 := rfl
@[simp] theorem State.emit_run (ev : Event) : (s.emit ev).run = s.run := rfl
@[simp] theorem State.emit_resValid (ev : Event) : (s.emit ev).resValid = s.resValid := rfl
@[simp] theorem State.emit_result (ev : Event) : (s.emit ev).result = s.result := rfl
@[simp] theorem State.emit_resErr (ev : Event) : (s.emit ev).resErr = s.resErr := rfl
@[simp] theorem State.emit_phase (ev : Event) : (s.emit ev).phase = s.phase := rfl
@[simp] theorem State.emit_lOp (ev : Event) : (s.emit ev).lOp = s.lOp := rfl
@[simp] theorem State.emit_lArg0 (ev : Event) : (s.emit ev).lArg0 = s.lArg0 := rfl
@[simp] theorem State.emit_lArg1 (ev : Event) : (s.emit ev).lArg1 = s.lArg1 := rfl
@[simp] theorem State.emit_upc (ev : Event) : (s.emit ev).upc = s.upc := rfl
@[simp] theorem State.emit_wst (ev : Event) : (s.emit ev).wst = s.wst := rfl
@[simp] theorem State.emit_pix (ev : Event) : (s.emit ev).pix = s.pix := rfl
@[simp] theorem State.emit_ey (ev : Event) : (s.emit ev).ey = s.ey := rfl
@[simp] theorem State.emit_ebx (ev : Event) : (s.emit ev).ebx = s.ebx := rfl
@[simp] theorem State.emit_lvlRst (ev : Event) : (s.emit ev).lvlRst = s.lvlRst := rfl
@[simp] theorem State.emit_lvlCs (ev : Event) : (s.emit ev).lvlCs = s.lvlCs := rfl
@[simp] theorem State.emit_lvlDc (ev : Event) : (s.emit ev).lvlDc = s.lvlDc := rfl
@[simp] theorem State.emit_bsample (ev : Event) : (s.emit ev).bsample = s.bsample := rfl
@[simp] theorem State.emit_pw (ev : Event) : (s.emit ev).pw = s.pw := rfl
@[simp] theorem State.emit_pr (ev : Event) : (s.emit ev).pr = s.pr := rfl
@[simp] theorem State.emit_trace (ev : Event) : (s.emit ev).trace = s.trace ++ [ev] := rfl
@[simp] theorem State.emit_img (ev : Event) : (s.emit ev).img = s.img := rfl
@[simp] theorem State.emit_imgDisturbed (ev : Event) : (s.emit ev).imgDisturbed = s.imgDisturbed := rfl
@[simp] theorem State.emit_imgEpoch (ev : Event) : (s.emit ev).imgEpoch = s.imgEpoch := rfl
@[simp] theorem State.emit_answers (ev : Event) : (s.emit ev).answers = s.answers := rfl
@[simp] theorem State.emit_answerCtr (ev : Event) : (s.emit ev).answerCtr = s.answerCtr := rfl
@[simp] theorem State.emit_samples (ev : Event) : (s.emit ev).samples = s.samples := rfl
@[simp] theorem State.emit_sampleCtr (ev : Event) : (s.emit ev).sampleCtr = s.sampleCtr := rfl
@[simp] theorem State.emit_races (ev : Event) : (s.emit ev).races = s.races := rfl
@[simp] theorem State.emit_raceCtr (ev : Event) : (s.emit ev).raceCtr = s.raceCtr := rfl
@[simp] theorem State.emit_inputs (ev : Event) : (s.emit ev).inputs = s.inputs := rfl
@[simp] theorem State.emit_lastRead (ev : Event) : (s.emit ev).lastRead = s.lastRead := rfl
@[simp] theorem State.emit_bench (ev : Event) : (s.emit ev).bench = s.bench := rfl

@[simp] theorem State.popAnswer_cfg : (s.popAnswer).cfg = s.cfg := rfl
@[simp] theorem State.popAnswer_op : (s.popAnswer).op = s.op := rfl
@[simp] theorem State.popAnswer_arg0 : (s.popAnswer).arg0 = s.arg0 := rfl
@[simp] theorem State.popAnswer_arg1 : (s.popAnswer).arg1 = s.arg1 := rfl
@[simp] theorem State.popAnswer_run : (s.popAnswer).run = s.run := rfl
@[simp] theorem State.popAnswer_resValid : (s.popAnswer).resValid = s.resValid := rfl
@[simp] theorem State.popAnswer_result : (s.popAnswer).result = s.result := rfl
@[simp] theorem State.popAnswer_resErr : (s.popAnswer).resErr = s.resErr := rfl
@[simp] theorem State.popAnswer_phase : (s.popAnswer).phase = s.phase := rfl
@[simp] theorem State.popAnswer_lOp : (s.popAnswer).lOp = s.lOp := rfl
@[simp] theorem State.popAnswer_lArg0 : (s.popAnswer).lArg0 = s.lArg0 := rfl
@[simp] theorem State.popAnswer_lArg1 : (s.popAnswer).lArg1 = s.lArg1 := rfl
@[simp] theorem State.popAnswer_upc : (s.popAnswer).upc = s.upc := rfl
@[simp] theorem State.popAnswer_wst : (s.popAnswer).wst = s.wst := rfl
@[simp] theorem State.popAnswer_pix : (s.popAnswer).pix = s.pix := rfl
@[simp] theorem State.popAnswer_ey : (s.popAnswer).ey = s.ey := rfl
@[simp] theorem State.popAnswer_ebx : (s.popAnswer).ebx = s.ebx := rfl
@[simp] theorem State.popAnswer_lvlRst : (s.popAnswer).lvlRst = s.lvlRst := rfl
@[simp] theorem State.popAnswer_lvlCs : (s.popAnswer).lvlCs = s.lvlCs := rfl
@[simp] theorem State.popAnswer_lvlDc : (s.popAnswer).lvlDc = s.lvlDc := rfl
@[simp] theorem State.popAnswer_bsample : (s.popAnswer).bsample = s.bsample := rfl
@[simp] theorem State.popAnswer_pw : (s.popAnswer).pw = s.pw := rfl
@[simp] theorem State.popAnswer_pr : (s.popAnswer).pr = s.pr := rfl
@[simp] theorem State.popAnswer_trace : (s.popAnswer).trace = s.trace := rfl
@[simp] theorem State.popAnswer_img : (s.popAnswer).img = s.img := rfl
@[simp] theorem State.popAnswer_imgDisturbed : (s.popAnswer).imgDisturbed = s.imgDisturbed := rfl
@[simp] theorem State.popAnswer_imgEpoch : (s.popAnswer).imgEpoch = s.imgEpoch := rfl
@[simp] theorem State.popAnswer_answers : (s.popAnswer).answers = s.answers.tail := rfl
@[simp] theorem State.popAnswer_answerCtr : (s.popAnswer).answerCtr = s.answerCtr + 1 := rfl
@[simp] theorem State.popAnswer_samples : (s.popAnswer).samples = s.samples := rfl
@[simp] theorem State.popAnswer_sampleCtr : (s.popAnswer).sampleCtr = s.sampleCtr := rfl
@[simp] theorem State.popAnswer_races : (s.popAnswer).races = s.races := rfl
@[simp] theorem State.popAnswer_raceCtr : (s.popAnswer).raceCtr = s.raceCtr := rfl
@[simp] theorem State.popAnswer_inputs : (s.popAnswer).inputs = s.inputs := rfl
@[simp] theorem State.popAnswer_lastRead : (s.popAnswer).lastRead = s.lastRead := rfl
@[simp] theorem State.popAnswer_bench : (s.popAnswer).bench = s.bench := rfl

@[simp] theorem State.popSample_cfg : (s.popSample).cfg = s.cfg := rfl
@[simp] theorem State.popSample_op : (s.popSample).op = s.op := rfl
@[simp] theorem State.popSample_arg0 : (s.popSample).arg0 = s.arg0 := rfl
@[simp] theorem State.popSample_arg1 : (s.popSample).arg1 = s.arg1 := rfl
@[simp] theorem State.popSample_run : (s.popSample).run = s.run := rfl
@[simp] theorem State.popSample_resValid : (s.popSample).resValid = s.resValid := rfl
@[simp] theorem State.popSample_result : (s.popSample).result = s.result := rfl
@[simp] theorem State.popSample_resErr : (s.popSample).resErr = s.resErr := rfl
@[simp] theorem State.popSample_phase : (s.popSample).phase = s.phase := rfl
@[simp] theorem State.popSample_lOp : (s.popSample).lOp = s.lOp := rfl
@[simp] theorem State.popSample_lArg0 : (s.popSample).lArg0 = s.lArg0 := rfl
@[simp] theorem State.popSample_lArg1 : (s.popSample).lArg1 = s.lArg1 := rfl
@[simp] theorem State.popSample_upc : (s.popSample).upc = s.upc := rfl
@[simp] theorem State.popSample_wst : (s.popSample).wst = s.wst := rfl
@[simp] theorem State.popSample_pix : (s.popSample).pix = s.pix := rfl
@[simp] theorem State.popSample_ey : (s.popSample).ey = s.ey := rfl
@[simp] theorem State.popSample_ebx : (s.popSample).ebx = s.ebx := rfl
@[simp] theorem State.popSample_lvlRst : (s.popSample).lvlRst = s.lvlRst := rfl
@[simp] theorem State.popSample_lvlCs : (s.popSample).lvlCs = s.lvlCs := rfl
@[simp] theorem State.popSample_lvlDc : (s.popSample).lvlDc = s.lvlDc := rfl
@[simp] theorem State.popSample_bsample : (s.popSample).bsample = s.bsample := rfl
@[simp] theorem State.popSample_pw : (s.popSample).pw = s.pw := rfl
@[simp] theorem State.popSample_pr : (s.popSample).pr = s.pr := rfl
@[simp] theorem State.popSample_trace : (s.popSample).trace = s.trace := rfl
@[simp] theorem State.popSample_img : (s.popSample).img = s.img := rfl
@[simp] theorem State.popSample_imgDisturbed : (s.popSample).imgDisturbed = s.imgDisturbed := rfl
@[simp] theorem State.popSample_imgEpoch : (s.popSample).imgEpoch = s.imgEpoch := rfl
@[simp] theorem State.popSample_answers : (s.popSample).answers = s.answers := rfl
@[simp] theorem State.popSample_answerCtr : (s.popSample).answerCtr = s.answerCtr := rfl
@[simp] theorem State.popSample_samples : (s.popSample).samples = s.samples.tail := rfl
@[simp] theorem State.popSample_sampleCtr : (s.popSample).sampleCtr = s.sampleCtr + 1 := rfl
@[simp] theorem State.popSample_races : (s.popSample).races = s.races := rfl
@[simp] theorem State.popSample_raceCtr : (s.popSample).raceCtr = s.raceCtr := rfl
@[simp] theorem State.popSample_inputs : (s.popSample).inputs = s.inputs := rfl
@[simp] theorem State.popSample_lastRead : (s.popSample).lastRead = s.lastRead := rfl
@[simp] theorem State.popSample_bench : (s.popSample).bench = s.bench := rfl

@[simp] theorem State.advance_cfg : (s.advance).cfg = s.cfg := rfl
@[simp] theorem State.advance_op : (s.advance).op = s.op := rfl
@[simp] theorem State.advance_arg0 : (s.advance).arg0 = s.arg0 := rfl
@[simp] theorem State.advance_arg1 : (s.advance).arg1 = s.arg1 := rfl
@[simp] theorem State.advance_run : (s.advance).run = s.run := rfl
@[simp] theorem State.advance_resValid : (s.advance).resValid = s.resValid := rfl
@[simp] theorem State.advance_result : (s.advance).result = s.result := rfl
@[simp] theorem State.advance_resErr : (s.advance).resErr = s.resErr := rfl
@[simp] theorem State.advance_phase : (s.advance).phase = s.phase := rfl
@[simp] theorem State.advance_lOp : (s.advance).lOp = s.lOp := rfl
@[simp] theorem State.advance_lArg0 : (s.advance).lArg0 = s.lArg0 := rfl
@[simp] theorem State.advance_lArg1 : (s.advance).lArg1 = s.lArg1 := rfl
@[simp] theorem State.advance_upc : (s.advance).upc = ⟨s.upc.seq, s.upc.k + 1⟩ := rfl
@[simp] theorem State.advance_wst : (s.advance).wst = s.wst := rfl
@[simp] theorem State.advance_pix : (s.advance).pix = s.pix := rfl
@[simp] theorem State.advance_ey : (s.advance).ey = s.ey := rfl
@[simp] theorem State.advance_ebx : (s.advance).ebx = s.ebx := rfl
@[simp] theorem State.advance_lvlRst : (s.advance).lvlRst = s.lvlRst := rfl
@[simp] theorem State.advance_lvlCs : (s.advance).lvlCs = s.lvlCs := rfl
@[simp] theorem State.advance_lvlDc : (s.advance).lvlDc = s.lvlDc := rfl
@[simp] theorem State.advance_bsample : (s.advance).bsample = s.bsample := rfl
@[simp] theorem State.advance_pw : (s.advance).pw = s.pw := rfl
@[simp] theorem State.advance_pr : (s.advance).pr = s.pr := rfl
@[simp] theorem State.advance_trace : (s.advance).trace = s.trace := rfl
@[simp] theorem State.advance_img : (s.advance).img = s.img := rfl
@[simp] theorem State.advance_imgDisturbed : (s.advance).imgDisturbed = s.imgDisturbed := rfl
@[simp] theorem State.advance_imgEpoch : (s.advance).imgEpoch = s.imgEpoch := rfl
@[simp] theorem State.advance_answers : (s.advance).answers = s.answers := rfl
@[simp] theorem State.advance_answerCtr : (s.advance).answerCtr = s.answerCtr := rfl
@[simp] theorem State.advance_samples : (s.advance).samples = s.samples := rfl
@[simp] theorem State.advance_sampleCtr : (s.advance).sampleCtr = s.sampleCtr := rfl
@[simp] theorem State.advance_races : (s.advance).races = s.races := rfl
@[simp] theorem State.advance_raceCtr : (s.advance).raceCtr = s.raceCtr := rfl
@[simp] theorem State.advance_inputs : (s.advance).inputs = s.inputs := rfl
@[simp] theorem State.advance_lastRead : (s.advance).lastRead = s.lastRead := rfl
@[simp] theorem State.advance_bench : (s.advance).bench = s.bench := rfl

@[simp] theorem State.setPhase_cfg (p : Phase) : (s.setPhase p).cfg = s.cfg := rfl
@[simp] theorem State.setPhase_op (p : Phase) : (s.setPhase p).op = s.op := rfl
@[simp] theorem State.setPhase_arg0 (p : Phase) : (s.setPhase p).arg0 = s.arg0 := rfl
@[simp] theorem State.setPhase_arg1 (p : Phase) : (s.setPhase p).arg1 = s.arg1 := rfl
@[simp] theorem State.setPhase_run (p : Phase) : (s.setPhase p).run = s.run := rfl
@[simp] theorem State.setPhase_resValid (p : Phase) : (s.setPhase p).resValid = s.resValid := rfl
@[simp] theorem State.setPhase_result (p : Phase) : (s.setPhase p).result = s.result := rfl
@[simp] theorem State.setPhase_resErr (p : Phase) : (s.setPhase p).resErr = s.resErr := rfl
@[simp] theorem State.setPhase_phase (p : Phase) : (s.setPhase p).phase = p := rfl
@[simp] theorem State.setPhase_lOp (p : Phase) : (s.setPhase p).lOp = s.lOp := rfl
@[simp] theorem State.setPhase_lArg0 (p : Phase) : (s.setPhase p).lArg0 = s.lArg0 := rfl
@[simp] theorem State.setPhase_lArg1 (p : Phase) : (s.setPhase p).lArg1 = s.lArg1 := rfl
@[simp] theorem State.setPhase_upc (p : Phase) : (s.setPhase p).upc = s.upc := rfl
@[simp] theorem State.setPhase_wst (p : Phase) : (s.setPhase p).wst = s.wst := rfl
@[simp] theorem State.setPhase_pix (p : Phase) : (s.setPhase p).pix = s.pix := rfl
@[simp] theorem State.setPhase_ey (p : Phase) : (s.setPhase p).ey = s.ey := rfl
@[simp] theorem State.setPhase_ebx (p : Phase) : (s.setPhase p).ebx = s.ebx := rfl
@[simp] theorem State.setPhase_lvlRst (p : Phase) : (s.setPhase p).lvlRst = s.lvlRst := rfl
@[simp] theorem State.setPhase_lvlCs (p : Phase) : (s.setPhase p).lvlCs = s.lvlCs := rfl
@[simp] theorem State.setPhase_lvlDc (p : Phase) : (s.setPhase p).lvlDc = s.lvlDc := rfl
@[simp] theorem State.setPhase_bsample (p : Phase) : (s.setPhase p).bsample = s.bsample := rfl
@[simp] theorem State.setPhase_pw (p : Phase) : (s.setPhase p).pw = s.pw := rfl
@[simp] theorem State.setPhase_pr (p : Phase) : (s.setPhase p).pr = s.pr := rfl
@[simp] theorem State.setPhase_trace (p : Phase) : (s.setPhase p).trace = s.trace := rfl
@[simp] theorem State.setPhase_img (p : Phase) : (s.setPhase p).img = s.img := rfl
@[simp] theorem State.setPhase_imgDisturbed (p : Phase) : (s.setPhase p).imgDisturbed = s.imgDisturbed := rfl
@[simp] theorem State.setPhase_imgEpoch (p : Phase) : (s.setPhase p).imgEpoch = s.imgEpoch := rfl
@[simp] theorem State.setPhase_answers (p : Phase) : (s.setPhase p).answers = s.answers := rfl
@[simp] theorem State.setPhase_answerCtr (p : Phase) : (s.setPhase p).answerCtr = s.answerCtr := rfl
@[simp] theorem State.setPhase_samples (p : Phase) : (s.setPhase p).samples = s.samples := rfl
@[simp] theorem State.setPhase_sampleCtr (p : Phase) : (s.setPhase p).sampleCtr = s.sampleCtr := rfl
@[simp] theorem State.setPhase_races (p : Phase) : (s.setPhase p).races = s.races := rfl
@[simp] theorem State.setPhase_raceCtr (p : Phase) : (s.setPhase p).raceCtr = s.raceCtr := rfl
@[simp] theorem State.setPhase_inputs (p : Phase) : (s.setPhase p).inputs = s.inputs := rfl
@[simp] theorem State.setPhase_lastRead (p : Phase) : (s.setPhase p).lastRead = s.lastRead := rfl
@[simp] theorem State.setPhase_bench (p : Phase) : (s.setPhase p).bench = s.bench := rfl

@[simp] theorem State.complete_cfg (c : ResultCode) (e : Option Terr) : (s.complete c e).cfg = s.cfg := rfl
@[simp] theorem State.complete_op (c : ResultCode) (e : Option Terr) : (s.complete c e).op = s.op := rfl
@[simp] theorem State.complete_arg0 (c : ResultCode) (e : Option Terr) : (s.complete c e).arg0 = s.arg0 := rfl
@[simp] theorem State.complete_arg1 (c : ResultCode) (e : Option Terr) : (s.complete c e).arg1 = s.arg1 := rfl
@[simp] theorem State.complete_run (c : ResultCode) (e : Option Terr) : (s.complete c e).run = false := rfl
@[simp] theorem State.complete_resValid (c : ResultCode) (e : Option Terr) : (s.complete c e).resValid = true := rfl
@[simp] theorem State.complete_result (c : ResultCode) (e : Option Terr) : (s.complete c e).result = c := rfl
@[simp] theorem State.complete_resErr (c : ResultCode) (e : Option Terr) : (s.complete c e).resErr = e := rfl
@[simp] theorem State.complete_phase (c : ResultCode) (e : Option Terr) : (s.complete c e).phase = s.phase := rfl
@[simp] theorem State.complete_lOp (c : ResultCode) (e : Option Terr) : (s.complete c e).lOp = s.lOp := rfl
@[simp] theorem State.complete_lArg0 (c : ResultCode) (e : Option Terr) : (s.complete c e).lArg0 = s.lArg0 := rfl
@[simp] theorem State.complete_lArg1 (c : ResultCode) (e : Option Terr) : (s.complete c e).lArg1 = s.lArg1 := rfl
@[simp] theorem State.complete_upc (c : ResultCode) (e : Option Terr) : (s.complete c e).upc = ⟨.none, 0⟩ := rfl
@[simp] theorem State.complete_wst (c : ResultCode) (e : Option Terr) : (s.complete c e).wst = s.wst := rfl
@[simp] theorem State.complete_pix (c : ResultCode) (e : Option Terr) : (s.complete c e).pix = s.pix := rfl
@[simp] theorem State.complete_ey (c : ResultCode) (e : Option Terr) : (s.complete c e).ey = s.ey := rfl
@[simp] theorem State.complete_ebx (c : ResultCode) (e : Option Terr) : (s.complete c e).ebx = s.ebx := rfl
@[simp] theorem State.complete_lvlRst (c : ResultCode) (e : Option Terr) : (s.complete c e).lvlRst = s.lvlRst := rfl
@[simp] theorem State.complete_lvlCs (c : ResultCode) (e : Option Terr) : (s.complete c e).lvlCs = s.lvlCs := rfl
@[simp] theorem State.complete_lvlDc (c : ResultCode) (e : Option Terr) : (s.complete c e).lvlDc = s.lvlDc := rfl
@[simp] theorem State.complete_bsample (c : ResultCode) (e : Option Terr) : (s.complete c e).bsample = s.bsample := rfl
@[simp] theorem State.complete_pw (c : ResultCode) (e : Option Terr) : (s.complete c e).pw = s.pw := rfl
@[simp] theorem State.complete_pr (c : ResultCode) (e : Option Terr) : (s.complete c e).pr = s.pr := rfl
@[simp] theorem State.complete_trace (c : ResultCode) (e : Option Terr) : (s.complete c e).trace = s.trace := rfl
@[simp] theorem State.complete_img (c : ResultCode) (e : Option Terr) : (s.complete c e).img = s.img := rfl
@[simp] theorem State.complete_imgDisturbed (c : ResultCode) (e : Option Terr) : (s.complete c e).imgDisturbed = s.imgDisturbed := rfl
@[simp] theorem State.complete_imgEpoch (c : ResultCode) (e : Option Terr) : (s.complete c e).imgEpoch = s.imgEpoch := rfl
@[simp] theorem State.complete_answers (c : ResultCode) (e : Option Terr) : (s.complete c e).answers = s.answers := rfl
@[simp] theorem State.complete_answerCtr (c : ResultCode) (e : Option Terr) : (s.complete c e).answerCtr = s.answerCtr := rfl
@[simp] theorem State.complete_samples (c : ResultCode) (e : Option Terr) : (s.complete c e).samples = s.samples := rfl
@[simp] theorem State.complete_sampleCtr (c : ResultCode) (e : Option Terr) : (s.complete c e).sampleCtr = s.sampleCtr := rfl
@[simp] theorem State.complete_races (c : ResultCode) (e : Option Terr) : (s.complete c e).races = s.races := rfl
@[simp] theorem State.complete_raceCtr (c : ResultCode) (e : Option Terr) : (s.complete c e).raceCtr = s.raceCtr := rfl
@[simp] theorem State.complete_inputs (c : ResultCode) (e : Option Terr) : (s.complete c e).inputs = s.inputs := rfl
@[simp] theorem State.complete_lastRead (c : ResultCode) (e : Option Terr) : (s.complete c e).lastRead = s.lastRead := rfl
@[simp] theorem State.complete_bench (c : ResultCode) (e : Option Terr) : (s.complete c e).bench = s.bench := rfl

@[simp] theorem State.start_cfg : (s.start).cfg = s.cfg := rfl
@[simp] theorem State.start_op : (s.start).op = s.op := rfl
@[simp] theorem State.start_arg0 : (s.start).arg0 = s.arg0 := rfl
@[simp] theorem State.start_arg1 : (s.start).arg1 = s.arg1 := rfl
@[simp] theorem State.start_run : (s.start).run = true := rfl
@[simp] theorem State.start_resValid : (s.start).resValid = false := rfl
@[simp] theorem State.start_result : (s.start).result = s.result := rfl
@[simp] theorem State.start_resErr : (s.start).resErr = s.resErr := rfl
@[simp] theorem State.start_phase : (s.start).phase = s.phase := rfl
@[simp] theorem State.start_lOp : (s.start).lOp = s.op := rfl
@[simp] theorem State.start_lArg0 : (s.start).lArg0 = s.arg0 := rfl
@[simp] theorem State.start_lArg1 : (s.start).lArg1 = s.arg1 := rfl
@[simp] theorem State.start_upc : (s.start).upc = ⟨dispatch s.op, 0⟩ := rfl
@[simp] theorem State.start_wst : (s.start).wst = s.wst := rfl
@[simp] theorem State.start_pix : (s.start).pix = s.pix := rfl
@[simp] theorem State.start_ey : (s.start).ey = s.ey := rfl
@[simp] theorem State.start_ebx : (s.start).ebx = s.ebx := rfl
@[simp] theorem State.start_lvlRst : (s.start).lvlRst = s.lvlRst := rfl
@[simp] theorem State.start_lvlCs : (s.start).lvlCs = s.lvlCs := rfl
@[simp] theorem State.start_lvlDc : (s.start).lvlDc = s.lvlDc := rfl
@[simp] theorem State.start_bsample : (s.start).bsample = s.bsample := rfl
@[simp] theorem State.start_pw : (s.start).pw = s.pw := rfl
@[simp] theorem State.start_pr : (s.start).pr = s.pr := rfl
@[simp] theorem State.start_trace : (s.start).trace = s.trace := rfl
@[simp] theorem State.start_img : (s.start).img = s.img := rfl
@[simp] theorem State.start_imgDisturbed : (s.start).imgDisturbed = false := rfl
@[simp] theorem State.start_imgEpoch : (s.start).imgEpoch = s.imgEpoch := rfl
@[simp] theorem State.start_answers : (s.start).answers = s.answers := rfl
@[simp] theorem State.start_answerCtr : (s.start).answerCtr = s.answerCtr := rfl
@[simp] theorem State.start_samples : (s.start).samples = s.samples := rfl
@[simp] theorem State.start_sampleCtr : (s.start).sampleCtr = s.sampleCtr := rfl
@[simp] theorem State.start_races : (s.start).races = [] := rfl
@[simp] theorem State.start_raceCtr : (s.start).raceCtr = s.raceCtr := rfl
@[simp] theorem State.start_inputs : (s.start).inputs = s.inputs := rfl
@[simp] theorem State.start_lastRead : (s.start).lastRead = s.lastRead := rfl
@[simp] theorem State.start_bench : (s.start).bench = s.bench := rfl

@[simp] theorem State.setLvl_cfg (l : Line) (v : Lvl) : (s.setLvl l v).cfg = s.cfg := by cases l <;> rfl
@[simp] theorem State.setLvl_op (l : Line) (v : Lvl) : (s.setLvl l v).op = s.op := by cases l <;> rfl
@[simp] theorem State.setLvl_arg0 (l : Line) (v : Lvl) : (s.setLvl l v).arg0 = s.arg0 := by cases l <;> rfl
@[simp] theorem State.setLvl_arg1 (l : Line) (v : Lvl) : (s.setLvl l v).arg1 = s.arg1 := by cases l <;> rfl
@[simp] theorem State.setLvl_run (l : Line) (v : Lvl) : (s.setLvl l v).run = s.run := by cases l <;> rfl
@[simp] theorem State.setLvl_resValid (l : Line) (v : Lvl) : (s.setLvl l v).resValid = s.resValid := by cases l <;> rfl
@[simp] theorem State.setLvl_result (l : Line) (v : Lvl) : (s.setLvl l v).result = s.result := by cases l <;> rfl
@[simp] theorem State.setLvl_resErr (l : Line) (v : Lvl) : (s.setLvl l v).resErr = s.resErr := by cases l <;> rfl
@[simp] theorem State.setLvl_phase (l : Line) (v : Lvl) : (s.setLvl l v).phase = s.phase := by cases l <;> rfl
@[simp] theorem State.setLvl_lOp (l : Line) (v : Lvl) : (s.setLvl l v).lOp = s.lOp := by cases l <;> rfl
@[simp] theorem State.setLvl_lArg0 (l : Line) (v : Lvl) : (s.setLvl l v).lArg0 = s.lArg0 := by cases l <;> rfl
@[simp] theorem State.setLvl_lArg1 (l : Line) (v : Lvl) : (s.setLvl l v).lArg1 = s.lArg1 := by cases l <;> rfl
@[simp] theorem State.setLvl_upc (l : Line) (v : Lvl) : (s.setLvl l v).upc = s.upc := by cases l <;> rfl
@[simp] theorem State.setLvl_wst (l : Line) (v : Lvl) : (s.setLvl l v).wst = s.wst := by cases l <;> rfl
@[simp] theorem State.setLvl_pix (l : Line) (v : Lvl) : (s.setLvl l v).pix = s.pix := by cases l <;> rfl
@[simp] theorem State.setLvl_ey (l : Line) (v : Lvl) : (s.setLvl l v).ey = s.ey := by cases l <;> rfl
@[simp] theorem State.setLvl_ebx (l : Line) (v : Lvl) : (s.setLvl l v).ebx = s.ebx := by cases l <;> rfl
@[simp] theorem State.setLvl_bsample (l : Line) (v : Lvl) : (s.setLvl l v).bsample = s.bsample := by cases l <;> rfl
@[simp] theorem State.setLvl_pw (l : Line) (v : Lvl) : (s.setLvl l v).pw = s.pw := by cases l <;> rfl
@[simp] theorem State.setLvl_pr (l : Line) (v : Lvl) : (s.setLvl l v).pr = s.pr := by cases l <;> rfl
@[simp] theorem State.setLvl_trace (l : Line) (v : Lvl) : (s.setLvl l v).trace = s.trace := by cases l <;> rfl
@[simp] theorem State.setLvl_img (l : Line) (v : Lvl) : (s.setLvl l v).img = s.img := by cases l <;> rfl
@[simp] theorem State.setLvl_imgDisturbed (l : Line) (v : Lvl) : (s.setLvl l v).imgDisturbed = s.imgDisturbed := by cases l <;> rfl
@[simp] theorem State.setLvl_imgEpoch (l : Line) (v : Lvl) : (s.setLvl l v).imgEpoch = s.imgEpoch := by cases l <;> rfl
@[simp] theorem State.setLvl_answers (l : Line) (v : Lvl) : (s.setLvl l v).answers = s.answers := by cases l <;> rfl
@[simp] theorem State.setLvl_answerCtr (l : Line) (v : Lvl) : (s.setLvl l v).answerCtr = s.answerCtr := by cases l <;> rfl
@[simp] theorem State.setLvl_samples (l : Line) (v : Lvl) : (s.setLvl l v).samples = s.samples := by cases l <;> rfl
@[simp] theorem State.setLvl_sampleCtr (l : Line) (v : Lvl) : (s.setLvl l v).sampleCtr = s.sampleCtr := by cases l <;> rfl
@[simp] theorem State.setLvl_races (l : Line) (v : Lvl) : (s.setLvl l v).races = s.races := by cases l <;> rfl
@[simp] theorem State.setLvl_raceCtr (l : Line) (v : Lvl) : (s.setLvl l v).raceCtr = s.raceCtr := by cases l <;> rfl
@[simp] theorem State.setLvl_inputs (l : Line) (v : Lvl) : (s.setLvl l v).inputs = s.inputs := by cases l <;> rfl
@[simp] theorem State.setLvl_lastRead (l : Line) (v : Lvl) : (s.setLvl l v).lastRead = s.lastRead := by cases l <;> rfl
@[simp] theorem State.setLvl_bench (l : Line) (v : Lvl) : (s.setLvl l v).bench = s.bench := by cases l <;> rfl

@[simp] theorem State.setPlaneByte_cfg (p : Plane) (i : Nat) (v : Byte) : (s.setPlaneByte p i v).cfg = s.cfg := by
  unfold State.setPlaneByte; split <;> cases p <;> rfl
@[simp] theorem State.setPlaneByte_op (p : Plane) (i : Nat) (v : Byte) : (s.setPlaneByte p i v).op = s.op := by
  unfold State.setPlaneByte; split <;> cases p <;> rfl
@[simp] theorem State.setPlaneByte_arg0 (p : Plane) (i : Nat) (v : Byte) : (s.setPlaneByte p i v).arg0 = s.arg0 := by
  unfold State.setPlaneByte; split <;> cases p <;> rfl
@[simp] theorem State.setPlaneByte_arg1 (p : Plane) (i : Nat) (v : Byte) : (s.setPlaneByte p i v).arg1 = s.arg1 := by
  unfold State.setPlaneByte; split <;> cases p <;> rfl
@[simp] theorem State.setPlaneByte_run (p : Plane) (i : Nat) (v : Byte) : (s.setPlaneByte p i v).run = s.run := by
  unfold State.setPlaneByte; split <;> cases p <;> rfl
@[simp] theorem State.setPlaneByte_resValid (p : Plane) (i : Nat) (v : Byte) : (s.setPlaneByte p i v).resValid = s.resValid := by
  unfold State.setPlaneByte; split <;> cases p <;> rfl
@[simp] theorem State.setPlaneByte_result (p : Plane) (i : Nat) (v : Byte) : (s.setPlaneByte p i v).result = s.result := by
  unfold State.setPlaneByte; split <;> cases p <;> rfl
@[simp] theorem State.setPlaneByte_resErr (p : Plane) (i : Nat) (v : Byte) : (s.setPlaneByte p i v).resErr = s.resErr := by
  unfold State.setPlaneByte; split <;> cases p <;> rfl
@[simp] theorem State.setPlaneByte_phase (p : Plane) (i : Nat) (v : Byte) : (s.setPlaneByte p i v).phase = s.phase := by
  unfold State.setPlaneByte; split <;> cases p <;> rfl
@[simp] theorem State.setPlaneByte_lOp (p : Plane) (i : Nat) (v : Byte) : (s.setPlaneByte p i v).lOp = s.lOp := by
  unfold State.setPlaneByte; split <;> cases p <;> rfl
@[simp] theorem State.setPlaneByte_lArg0 (p : Plane) (i : Nat) (v : Byte) : (s.setPlaneByte p i v).lArg0 = s.lArg0 := by
  unfold State.setPlaneByte; split <;> cases p <;> rfl
@[simp] theorem State.setPlaneByte_lArg1 (p : Plane) (i : Nat) (v : Byte) : (s.setPlaneByte p i v).lArg1 = s.lArg1 := by
  unfold State.setPlaneByte; split <;> cases p <;> rfl
@[simp] theorem State.setPlaneByte_upc (p : Plane) (i : Nat) (v : Byte) : (s.setPlaneByte p i v).upc = s.upc := by
  unfold State.setPlaneByte; split <;> cases p <;> rfl
@[simp] theorem State.setPlaneByte_wst (p : Plane) (i : Nat) (v : Byte) : (s.setPlaneByte p i v).wst = s.wst := by
  unfold State.setPlaneByte; split <;> cases p <;> rfl
@[simp] theorem State.setPlaneByte_pix (p : Plane) (i : Nat) (v : Byte) : (s.setPlaneByte p i v).pix = s.pix := by
  unfold State.setPlaneByte; split <;> cases p <;> rfl
@[simp] theorem State.setPlaneByte_ey (p : Plane) (i : Nat) (v : Byte) : (s.setPlaneByte p i v).ey = s.ey := by
  unfold State.setPlaneByte; split <;> cases p <;> rfl
@[simp] theorem State.setPlaneByte_ebx (p : Plane) (i : Nat) (v : Byte) : (s.setPlaneByte p i v).ebx = s.ebx := by
  unfold State.setPlaneByte; split <;> cases p <;> rfl
@[simp] theorem State.setPlaneByte_lvlRst (p : Plane) (i : Nat) (v : Byte) : (s.setPlaneByte p i v).lvlRst = s.lvlRst := by
  unfold State.setPlaneByte; split <;> cases p <;> rfl
@[simp] theorem State.setPlaneByte_lvlCs (p : Plane) (i : Nat) (v : Byte) : (s.setPlaneByte p i v).lvlCs = s.lvlCs := by
  unfold State.setPlaneByte; split <;> cases p <;> rfl
@[simp] theorem State.setPlaneByte_lvlDc (p : Plane) (i : Nat) (v : Byte) : (s.setPlaneByte p i v).lvlDc = s.lvlDc := by
  unfold State.setPlaneByte; split <;> cases p <;> rfl
@[simp] theorem State.setPlaneByte_bsample (p : Plane) (i : Nat) (v : Byte) : (s.setPlaneByte p i v).bsample = s.bsample := by
  unfold State.setPlaneByte; split <;> cases p <;> rfl
@[simp] theorem State.setPlaneByte_trace (p : Plane) (i : Nat) (v : Byte) : (s.setPlaneByte p i v).trace = s.trace := by
  unfold State.setPlaneByte; split <;> cases p <;> rfl
@[simp] theorem State.setPlaneByte_img (p : Plane) (i : Nat) (v : Byte) : (s.setPlaneByte p i v).img = s.img := by
  unfold State.setPlaneByte; split <;> cases p <;> rfl
@[simp] theorem State.setPlaneByte_imgDisturbed (p : Plane) (i : Nat) (v : Byte) : (s.setPlaneByte p i v).imgDisturbed = s.imgDisturbed := by
  unfold State.setPlaneByte; split <;> cases p <;> rfl
@[simp] theorem State.setPlaneByte_imgEpoch (p : Plane) (i : Nat) (v : Byte) : (s.setPlaneByte p i v).imgEpoch = s.imgEpoch := by
  unfold State.setPlaneByte; split <;> cases p <;> rfl
@[simp] theorem State.setPlaneByte_answers (p : Plane) (i : Nat) (v : Byte) : (s.setPlaneByte p i v).answers = s.answers := by
  unfold State.setPlaneByte; split <;> cases p <;> rfl
@[simp] theorem State.setPlaneByte_answerCtr (p : Plane) (i : Nat) (v : Byte) : (s.setPlaneByte p i v).answerCtr = s.answerCtr := by
  unfold State.setPlaneByte; split <;> cases p <;> rfl
@[simp] theorem State.setPlaneByte_samples (p : Plane) (i : Nat) (v : Byte) : (s.setPlaneByte p i v).samples = s.samples := by
  unfold State.setPlaneByte; split <;> cases p <;> rfl
@[simp] theorem State.setPlaneByte_sampleCtr (p : Plane) (i : Nat) (v : Byte) : (s.setPlaneByte p i v).sampleCtr = s.sampleCtr := by
  unfold State.setPlaneByte; split <;> cases p <;> rfl
@[simp] theorem State.setPlaneByte_races (p : Plane) (i : Nat) (v : Byte) : (s.setPlaneByte p i v).races = s.races := by
  unfold State.setPlaneByte; split <;> cases p <;> rfl
@[simp] theorem State.setPlaneByte_raceCtr (p : Plane) (i : Nat) (v : Byte) : (s.setPlaneByte p i v).raceCtr = s.raceCtr := by
  unfold State.setPlaneByte; split <;> cases p <;> rfl
@[simp] theorem State.setPlaneByte_inputs (p : Plane) (i : Nat) (v : Byte) : (s.setPlaneByte p i v).inputs = s.inputs := by
  unfold State.setPlaneByte; split <;> cases p <;> rfl
@[simp] theorem State.setPlaneByte_lastRead (p : Plane) (i : Nat) (v : Byte) : (s.setPlaneByte p i v).lastRead = s.lastRead := by
  unfold State.setPlaneByte; split <;> cases p <;> rfl
@[simp] theorem State.setPlaneByte_bench (p : Plane) (i : Nat) (v : Byte) : (s.setPlaneByte p i v).bench = s.bench := by
  unfold State.setPlaneByte; split <;> cases p <;> rfl

@[simp] theorem State.setLvl_dc (v : Lvl) : s.setLvl .dc v = { s with lvlDc := v } := rfl

@[simp] theorem State.setLvl_rst (v : Lvl) : s.setLvl .rst v = { s with lvlRst := v } := rfl

@[simp] theorem State.plane_pw : s.plane .pw = s.pw := rfl

@[simp] theorem State.plane_pr : s.plane .pr = s.pr := rfl

end Sys2Proof.Machine
end

