-- ==== Sys2Proof/Laws/Memory.lean ====
section
/-! SUPPORT. The laws of the byte memories: a read after a write to the same place gives the value, a write leaves every
other place alone, and every memory operation keeps the canonical form. -/

namespace Sys2Proof.Machine

theorem Memory.lookup_insert_self (m : List Host.Cell) (a : Nat) (v : Byte) :
    Memory.lookup (Memory.insert m a v) a = some v := by
  induction m with
  | nil => simp [Memory.insert, Memory.lookup]
  | cons c rest ih =>
    obtain ⟨b, w⟩ := c
    unfold Memory.insert
    split
    · simp [Memory.lookup]
    · split
      · simp [Memory.lookup]
      · rename_i h1 h2
        simp [Memory.lookup, h2, ih]

theorem Memory.lookup_insert_ne (m : List Host.Cell) (a c : Nat) (v : Byte) (h : c ≠ a) :
    Memory.lookup (Memory.insert m a v) c = Memory.lookup m c := by
  induction m with
  | nil => simp [Memory.insert, Memory.lookup, h]
  | cons d rest ih =>
    obtain ⟨b, w⟩ := d
    unfold Memory.insert
    split
    · simp [Memory.lookup, h]
    · split
      · rename_i h1 h2
        subst h2
        simp [Memory.lookup, h]
      · simp [Memory.lookup, ih]

theorem Memory.between_mono (hi lo lo' : Nat) (m : List Host.Cell) (h : lo ≤ lo') :
    Memory.between hi lo' m = true → Memory.between hi lo m = true := by
  cases m with
  | nil => simp [Memory.between]
  | cons c rest =>
    simp only [Memory.between, Bool.and_eq_true, decide_eq_true_eq]
    rintro ⟨⟨h1, h2⟩, h3⟩
    exact ⟨⟨Nat.le_trans h h1, h2⟩, h3⟩

theorem Memory.between_insert (hi lo : Nat) (m : List Host.Cell) (a : Nat) (v : Byte) (hlo : lo ≤ a) (hhi : a < hi) :
    Memory.between hi lo m = true → Memory.between hi lo (Memory.insert m a v) = true := by
  induction m generalizing lo with
  | nil => simp [Memory.insert, Memory.between, hlo, hhi]
  | cons c rest ih =>
    obtain ⟨b, w⟩ := c
    simp only [Memory.between, Bool.and_eq_true, decide_eq_true_eq]
    rintro ⟨⟨h1, h2⟩, h3⟩
    unfold Memory.insert
    split
    · rename_i hab
      simp [Memory.between, hlo, hhi, h2, h3]
      omega
    · split
      · rename_i hab hab'
        subst hab'
        simp [Memory.between, hlo, hhi, h3]
      · rename_i hab hab'
        simp only [Memory.between, Bool.and_eq_true, decide_eq_true_eq]
        exact ⟨⟨h1, h2⟩, ih (b + 1) (by omega) h3⟩

/-- Writing inside a memory keeps its canonical form. -/
theorem Memory.wf_insert (size : Nat) (m : List Host.Cell) (a : Nat) (v : Byte) (ha : a < size)
    (h : Memory.wf size m = true) : Memory.wf size (Memory.insert m a v) = true :=
  Memory.between_insert size 0 m a v (Nat.zero_le a) ha h

/-- A plane write keeps both planes canonical (R74: an index past the end is ignored). -/
theorem State.setPlaneByte_wf (s : State) (p q : Plane) (i : Nat) (v : Byte)
    (h : Memory.wf Config.planeBytes (s.plane q) = true) :
    Memory.wf Config.planeBytes ((s.setPlaneByte p i v).plane q) = true := by
  unfold State.setPlaneByte
  split
  · cases p <;> cases q <;> first | exact h | exact Memory.wf_insert _ _ _ _ ‹_› h
  · exact h

/-- `MemRead` after `MemWrite` (R15): the byte written at its own place, every other byte of both planes as before. -/
theorem State.planeByte_setPlaneByte (s : State) (p q : Plane) (i j : Nat) (v : Byte) (hi : i < Config.planeBytes) :
    (s.setPlaneByte p i v).planeByte q j = if q = p ∧ j = i then v else s.planeByte q j := by
  simp only [State.setPlaneByte, if_pos hi]
  by_cases hj : j = i
  · subst hj
    cases p <;> cases q <;> simp [State.planeByte, State.plane, Memory.lookup_insert_self]
  · cases p <;> cases q <;> simp [State.planeByte, State.plane, hj, Memory.lookup_insert_ne]

/-- A plane byte depends on the planes alone. -/
theorem State.planeByte_congr (s t : State) (hw : t.pw = s.pw) (hr : t.pr = s.pr) (p : Plane) (i : Nat) :
    t.planeByte p i = s.planeByte p i := by
  cases p <;> simp [State.planeByte, State.plane, hw, hr]

/-- A plane write changes nothing but the planes. -/
theorem State.setPlaneByte_frame (s : State) (p : Plane) (i : Nat) (v : Byte) :
    s.setPlaneByte p i v = { s with pw := (s.setPlaneByte p i v).pw, pr := (s.setPlaneByte p i v).pr } := by
  unfold State.setPlaneByte
  split <;> cases p <;> rfl

/-- A write to one plane leaves the other plane's cells. -/
@[simp] theorem State.setPlaneByte_pw_pr (s : State) (i : Nat) (v : Byte) : (s.setPlaneByte .pw i v).pr = s.pr := by
  unfold State.setPlaneByte; split <;> rfl

@[simp] theorem State.setPlaneByte_pr_pw (s : State) (i : Nat) (v : Byte) : (s.setPlaneByte .pr i v).pw = s.pw := by
  unfold State.setPlaneByte; split <;> rfl

/-- The power-on planes are canonical. -/
theorem State.reset_planes_wf (p : Plane) : Memory.wf Config.planeBytes (State.reset.plane p) = true := by
  cases p <;> rfl

end Sys2Proof.Machine
end

