-- ==== Sys2Proof/Machine/Trace.lean ====
section
/-! DEFINITION. What is observed of a run: the projections `wire` and `exchanges` of a trace (10_state.md R48), the bytes
on the bus pins (20_memory.md R81 to R83), the exchanges the block sends (30_encoding.md R109), and the trace notation
(R117, R119). -/

namespace Sys2Proof.Machine

/-- A byte the bus carried: a command byte or a data byte (R19, R48). -/
inductive WireByte where
  | cmd (b : Byte)
  | data (b : Byte)
  deriving DecidableEq, Repr

/-- An event's byte on the wire, when it is a transfer that succeeded (R48). -/
def Event.wireByte : Event → Option WireByte
  | .cmd b .ok => some (.cmd b)
  | .data b .ok => some (.data b)
  | .cmd _ (.fail _) | .data _ (.fail _) | .phase _ | .line _ _ _ | .delay _ | .sample _ _ => none

/-- `wire(trace)` (R48). -/
def wire (trace : List Event) : List WireByte := trace.filterMap Event.wireByte

/-- The data bytes up to the next command. -/
def leadingData : List WireByte → List Byte
  | .data b :: rest => b :: leadingData rest
  | .cmd _ :: _ => []
  | [] => []

/-- The exchanges of a run of wire bytes: each opens at a command and holds the data bytes up to the next one (R48). -/
def cutExchanges : List WireByte → List (Byte × List Byte)
  | .cmd b :: rest => (b, leadingData rest) :: cutExchanges rest
  | .data _ :: rest => cutExchanges rest
  | [] => []

/-- `exchanges(trace)` (R48). -/
def exchanges (trace : List Event) : List (Byte × List Byte) := cutExchanges (wire trace)

/-- A byte transfer at the pins: chip select low, the data/command line, the bits in wire order, the clock's idle level,
and whether data is sampled on the leading edge (R81, R82, R83). -/
structure ByteFrame where
  cs : Level
  dc : Level
  bits : List Level
  clockIdle : Level
  leadingEdge : Bool
  deriving DecidableEq, Repr

/-- The transfer of a byte: CS low (PRESUMED by the spec from general knowledge, log 22), bit 7 first, leading-edge
sampling, the idle polarity SPI_CPOL (R81, R83). -/
def byteFrame (c : Config) (dc : Level) (b : Byte) : ByteFrame where
  cs := .low
  dc := dc
  bits := [7, 6, 5, 4, 3, 2, 1, 0].map fun j => Level.ofBool (b.getLsbD j)
  clockIdle := c.spiCpol
  leadingEdge := true

/-- A wire byte's transfer: DC low for a command byte, high for a data byte (R82). -/
def WireByte.frame (c : Config) : WireByte → ByteFrame
  | .cmd b => byteFrame c .low b
  | .data b => byteFrame c .high b

/-- The transfers of a trace, in order (R85). -/
def frames (c : Config) (trace : List Event) : List ByteFrame := (wire trace).map (WireByte.frame c)

/-- The literal data bytes R109 gives a command the block sends, with no data bytes for the two plane transmissions, whose
data is the plane. -/
def literalData (command : Byte) : List Byte :=
  match command.toNat with
  | 0x01 => [0x07#8, 0x07#8, 0x3F#8, 0x3F#8]
  | 0x00 => [0x0F#8]
  | 0x15 => [0x00#8]
  | 0x50 => [0x11#8, 0x07#8]
  | 0x60 => [0x22#8]
  | 0x07 => [0xA5#8]
  | _ => []

/-- The 12 command values the block sends (R218). -/
def sentCommands : List Byte :=
  [0x00#8, 0x01#8, 0x02#8, 0x04#8, 0x07#8, 0x10#8, 0x12#8, 0x13#8, 0x15#8, 0x50#8, 0x60#8, 0x71#8]

/-- The commands of a trace, sent or attempted. -/
def commandsOf (trace : List Event) : List Byte :=
  trace.filterMap fun
    | .cmd b _ => some b
    | .data _ _ | .phase _ | .line _ _ _ | .delay _ | .sample _ _ => none

/-- A phase's name (R38, R119). -/
def Phase.text : Phase → String
  | .poweredOff => "PoweredOff"
  | .resetting => "Resetting"
  | .initializing => "Initializing"
  | .idle => "Idle"
  | .transmitting => "Transmitting"
  | .refreshing => "Refreshing"
  | .sleeping => "Sleeping"

/-- A level's digit (R119). -/
def levelText : Level → String
  | .low => "0"
  | .high => "1"

/-- A hexadecimal digit. -/
def hexDigit : Nat → String
  | 0 => "0" | 1 => "1" | 2 => "2" | 3 => "3" | 4 => "4" | 5 => "5" | 6 => "6" | 7 => "7"
  | 8 => "8" | 9 => "9" | 10 => "A" | 11 => "B" | 12 => "C" | 13 => "D" | 14 => "E" | _ => "F"

/-- A byte in two hexadecimal digits. -/
def hexByte (b : Byte) : String := hexDigit (b.toNat / 16) ++ hexDigit (b.toNat % 16)

/-- The mark of a failed call (R119). -/
def answerMark : Answer → String
  | .ok => ""
  | .fail _ => " FAIL"

/-- A line's name, from its identifier (R119). -/
def lineText (c : Config) (l : LineId) : String :=
  if l = c.lineRst then "RST" else if l = c.lineCs then "CS" else if l = c.lineDc then "DC" else "BUSY"

/-- One event in the notation of R119. -/
def Event.text (c : Config) : Event → String
  | .phase p => "PHASE " ++ p.text
  | .line l v r => "LINE " ++ lineText c l ++ " " ++ levelText v ++ answerMark r
  | .delay ms => "DELAY " ++ toString ms
  | .cmd b r => "CMD 0x" ++ hexByte b ++ answerMark r
  | .data b r => "DATA 0x" ++ hexByte b ++ answerMark r
  | .sample l (.ok v) => "SAMPLE " ++ lineText c l ++ " " ++ levelText v
  | .sample l (.fail _) => "SAMPLE " ++ lineText c l ++ " FAIL"

/-- An exchange's name: its mnemonic, for a defined command (R117, R218). -/
def commandText (b : Byte) : Option String := (decodeWire b).toOption.map Instr.mnemonic

/-- One exchange in the notation of R117. -/
def exchangeText (e : Byte × List Byte) : Option String :=
  (commandText e.1).map fun name => e.2.foldl (fun acc b => acc ++ " " ++ hexByte b) name

end Sys2Proof.Machine
end

