-- ==== Sys2Proof/Safety.lean ====
section
/-! DEFINITION. The terms claims are stated in: the legal states every step keeps, the phase edges, the answers still to
come, and the event lists of whole operations. -/

namespace Sys2Proof.Machine

/-- The micro-sequencer is where R36, R37 and R40 put it: NONE exactly while RUN = 0, else in the listing dispatch chose. -/
abbrev State.sequencerLegal (s : State) : Prop :=
  (s.run = true ↔ s.upc.seq ≠ .none) ∧
  (s.run = true → s.upc.seq = dispatch s.lOp) ∧
  (s.upc.seq = .none ∨ s.upc.seq = .rsv → s.upc.k = 0) ∧
  (s.upc.seq ≠ .none ∧ s.upc.seq ≠ .rsv → s.upc.k < s.listing.length)

/-- A busy-wait's sub-state other than W_CMD is held only inside a busy-wait, and W_DELAY only with a poll delay (R196). -/
abbrev State.waitLegal (s : State) : Prop :=
  (s.wst ≠ .cmd → s.row = some .wi) ∧ (s.wst = .delay → 0 < s.cfg.pollDelayMs)

/-- PIX is below PLANE_BYTES, and 0 except inside a plane transmission (R40, R194). -/
abbrev State.pixLegal (s : State) : Prop :=
  s.pix.toNat < Config.planeBytes ∧ (s.pix ≠ 0#16 → s.row = some (.dp .pw) ∨ s.row = some (.dp .pr))

/-- The encoder's cursor is inside the frame while groups remain (R41, R146). -/
abbrev State.cursorLegal (s : State) : Prop :=
  s.ebx.toNat < Config.bytesPerRow ∧ s.ey.toNat ≤ Config.height ∧
  (s.upc = ⟨.enc, 1⟩ → s.ey.toNat < Config.height)

/-- The phase a position in a listing goes with (R171, R178, R182, R186); `none` where any phase an operation can start
in may stand. -/
def phaseAt (upc : Upc) : Option Phase :=
  match upc.seq, upc.k with
  | .init, 0 => none
  | .init, k => if k ≤ 5 then some .resetting else if k ≤ 22 then some .initializing else some .idle
  | .render, 0 => none
  | .render, 1 => some .idle
  | .render, k => if k ≤ 6 then some .transmitting else if k ≤ 10 then some .refreshing else some .idle
  | .sleep, 0 => none
  | .sleep, k => if k ≤ 5 then some .idle else some .sleeping
  | .none, _ => none
  | .enc, _ => none
  | .rsv, _ => none

/-- The phase goes with the micro-sequencer; Initializing is held only while INIT runs (R38, R171). -/
abbrev State.phaseLegal (s : State) : Prop :=
  match phaseAt s.upc with
  | some p => s.phase = p
  | none => s.phase ≠ .initializing

/-- RES_ERR is `none` for every result but TRANSPORT_ERROR, and for TRANSPORT_ERROR it holds an error value (R107); RES_VALID
is 0 while an operation runs (R36, R37). -/
abbrev State.resultLegal (s : State) : Prop :=
  (s.result ≠ .transportError → s.resErr = none) ∧ (s.result = .transportError → s.resErr ≠ none) ∧
  (s.run = true → s.resValid = false)

/-- Both planes keep the canonical form. -/
abbrev State.planesLegal (s : State) : Prop :=
  Memory.wf Config.planeBytes s.pw = true ∧ Memory.wf Config.planeBytes s.pr = true

/-- A legal state: what every state of a run of the block satisfies, whatever the host, the Panel and the Transport do.
The model's bench port is empty (log 14). -/
abbrev State.Legal (s : State) : Prop :=
  s.cfg.wf = true ∧ s.bench = none ∧ s.sequencerLegal ∧ s.waitLegal ∧ s.pixLegal ∧ s.cursorLegal ∧ s.phaseLegal ∧
  s.resultLegal ∧ s.planesLegal ∧ s.lvlCs = .unknown

/-- The edges of the phase register (R171). -/
def phaseEdge (p q : Phase) : Prop :=
  q = .resetting ∨ (p = .resetting ∧ q = .initializing) ∨ (p = .initializing ∧ q = .idle) ∨
  (p = .idle ∧ q = .transmitting) ∨ (p = .transmitting ∧ q = .refreshing) ∨ (p = .refreshing ∧ q = .idle) ∨
  (p = .idle ∧ q = .sleeping) ∨ q = .poweredOff

/-- The Transport's answer to the call after the next `j` calls (R266): a listed one, else a free value. -/
def State.answerAt (s : State) (j : Nat) : Answer := (s.answers[j]?).getD (Config.freeAnswer (s.answerCtr + j))

/-- The BUSY level at the sample after the next `j` samples (R197): a listed one, else a free value. -/
def State.sampleAt (s : State) (j : Nat) : Level := (s.samples[j]?).getD (Config.freeSample (s.sampleCtr + j))

/-- TransportReliable (R266), for the next `n` calls. -/
def State.reliableFor (s : State) (n : Nat) : Prop := ∀ j, j < n → s.answerAt j = .ok

/-- PanelEventuallyIdle (R197), with the panel busy at exactly the next `n` samples. -/
def State.busyFor (s : State) (n : Nat) : Prop :=
  (∀ j, j < n → s.sampleAt j = s.cfg.busyActive) ∧ s.sampleAt n ≠ s.cfg.busyActive

/-- The block runs alone from here: nothing is queued, at the bench port or by the host. -/
def State.alone (s : State) : Prop := s.cfg.wf = true ∧ s.bench = none ∧ s.inputs = []

/-- It is the block's turn in `s`, and the turn is taken in `t`: nothing is queued, or the host gives the block its turn, or
the host polls a running block (R115, R271). -/
def State.blockTurn (s t : State) : Prop :=
  s.cfg.wf = true ∧ s.bench = none ∧
  ((s.inputs = [] ∧ t = s) ∨ (∃ rest, s.inputs = .block :: rest ∧ t = { s with inputs := rest }) ∨
    (∃ rest, s.inputs = .awaitIdle :: rest ∧ s.run = true ∧ t = s))

/-- It is the host's turn in `s`, with this request before the others. -/
def State.hostTurn (s : State) (r : HostReq) (rest : List HostReq) : Prop :=
  s.cfg.wf = true ∧ s.bench = none ∧ s.inputs = r :: rest

/-- The level that is not busy. -/
def idleLevel (c : Config) : Level :=
  match c.busyActive with
  | .low => .high
  | .high => .low

/-- The events of a poll that reads `v` (R196). -/
def pollEvents (c : Config) (v : Level) : List Event := [.cmd 0x71#8 .ok, .sample c.lineBusy (.ok v)]

/-- The delay after a busy poll (R199). -/
def pollDelayEvents (c : Config) : List Event := if 0 < c.pollDelayMs then [.delay c.pollDelayMs] else []

/-- The events of a busy-wait with `n` busy samples before the one that exits it (R196, R199). -/
def waitEvents (c : Config) : Nat → List Event
  | 0 => pollEvents c (idleLevel c)
  | n + 1 => pollEvents c c.busyActive ++ pollDelayEvents c ++ waitEvents c n

/-- The block steps of such a busy-wait (R196). -/
def waitSteps (c : Config) (n : Nat) : Nat := 2 * (n + 1) + if 0 < c.pollDelayMs then n else 0

/-- A command that got through, and its literal data bytes (R108). -/
def sentEvents (command : Byte) (bytes : List Byte) : List Event :=
  .cmd command .ok :: bytes.map fun b => .data b .ok

/-- The events of an INIT in which every call answers ok (R178, vector V1). -/
def initEvents (c : Config) (n : Nat) : List Event :=
  [.phase .resetting, .line c.lineRst .low .ok, .delay c.tRstMs, .line c.lineRst .high .ok, .delay c.tRstMs,
   .phase .initializing] ++
  sentEvents 0x01#8 [0x07#8, 0x07#8, 0x3F#8, 0x3F#8] ++ sentEvents 0x04#8 [] ++ waitEvents c n ++
  sentEvents 0x00#8 [0x0F#8] ++ sentEvents 0x15#8 [0x00#8] ++ sentEvents 0x50#8 [0x11#8, 0x07#8] ++
  sentEvents 0x60#8 [0x22#8] ++ [.phase .idle]

/-- The bytes of a plane in ascending order (R194). -/
def State.planeBytesOf (s : State) (p : Plane) : List Byte := (List.range Config.planeBytes).map (s.planeByte p)

/-- The events of a RENDER in which every call answers ok (R182, vector V6). -/
def renderEvents (s : State) (n : Nat) : List Event :=
  [.phase .transmitting] ++ sentEvents 0x10#8 (s.planeBytesOf .pw) ++ sentEvents 0x13#8 (s.planeBytesOf .pr) ++
  [.phase .refreshing] ++ sentEvents 0x12#8 [] ++ [.delay Config.tRefreshMs] ++ waitEvents s.cfg n ++ [.phase .idle]

/-- The events of a SLEEP in which every call answers ok (R186, vector V7). -/
def sleepEvents (c : Config) (n : Nat) : List Event :=
  sentEvents 0x02#8 [] ++ waitEvents c n ++ sentEvents 0x07#8 [0xA5#8] ++ [.phase .sleeping]

end Sys2Proof.Machine
end

