-- ==== Sys2Proof/Laws/Ops.lean ====
section
/-! SUPPORT. One lemma per shared operation that says everything it does: the abort, each micro-operation with an answer of
ok and with a failure, the row at `upc`, a block step of an operation. Later proofs cite these and do not unfold. -/

namespace Sys2Proof.Machine

variable (s : State)

/-- The abort of R268, as one update. -/
theorem State.abort_eq (e : Terr) : s.abort e =
    { s with
      phase := if s.upc.seq = .init then .resetting else s.phase
      trace := s.trace ++ if s.upc.seq = .init then [.phase .resetting] else []
      pix := 0#16, wst := .cmd
      result := .transportError, resErr := some e, resValid := true, run := false, upc := ⟨.none, 0⟩ } := by
  unfold State.abort State.abortPhase
  split <;> simp [State.complete, State.emit, State.setPhase]

theorem State.afterCall_ok (r : Answer) (f g : State → State) (h : r = .ok) : s.afterCall r f g = f s := by
  subst h; rfl

theorem State.afterCall_fail (r : Answer) (e : Terr) (f g : State → State) (h : r = .fail e) :
    s.afterCall r f g = (g s).abort e := by
  subst h; rfl

/-- The row at `upc` depends on the micro-sequencer, the configuration and the latched operands alone. -/
theorem State.row_congr (t : State) (hu : t.upc = s.upc) (hc : t.cfg = s.cfg) (h0 : t.lArg0 = s.lArg0)
    (h1 : t.lArg1 = s.lArg1) : t.row = s.row := by
  simp [State.row, State.listing, State.eLow, State.eHigh, hu, hc, h0, h1]

/-- Drawing an answer shifts the answers to come (log 5). -/
@[simp] theorem State.answerAt_popAnswer (j : Nat) : s.popAnswer.answerAt j = s.answerAt (j + 1) := by
  simp [State.answerAt, State.popAnswer, Nat.add_assoc, Nat.add_comm 1 j]

/-- Drawing a level shifts the levels to come (log 5). -/
@[simp] theorem State.sampleAt_popSample (j : Nat) : s.popSample.sampleAt j = s.sampleAt (j + 1) := by
  simp [State.sampleAt, State.popSample, Nat.add_assoc, Nat.add_comm 1 j]

theorem State.nextAnswer_eq : s.nextAnswer = s.answerAt 0 := by
  unfold State.nextAnswer State.answerAt
  cases s.answers <;> simp

theorem State.nextSample_eq : s.nextSample = s.sampleAt 0 := by
  unfold State.nextSample State.sampleAt
  cases s.samples <;> simp

/-- `CM(b)` with an answer of ok (R82, R193). -/
theorem State.cm_ok (b : Byte) (h : s.nextAnswer = .ok) : s.cm b =
    State.commandSent { s with
      answers := s.answers.tail, answerCtr := s.answerCtr + 1
      trace := s.trace ++ [.cmd b .ok], lvlDc := .known .low } b := by
  unfold State.cm
  rw [State.afterCall_ok _ _ _ _ h, h]
  rfl

/-- `CM(b)` with a failure (R82, R193, R268). -/
theorem State.cm_fail (b : Byte) (e : Terr) (h : s.nextAnswer = .fail e) : s.cm b =
    State.abort { s with
      answers := s.answers.tail, answerCtr := s.answerCtr + 1
      trace := s.trace ++ [.cmd b (.fail e)], lvlDc := .unknown } e := by
  unfold State.cm
  rw [State.afterCall_fail _ _ e _ _ h, h]
  rfl

/-- A command sent from the CM row that sends it moves the micro-sequencer to the next row (R193). -/
theorem State.commandSent_row (b : Byte) (h : s.row = some (.cm b)) : s.commandSent b = s.advance := by
  simp [State.commandSent, h]

/-- GET_STATUS sent from a busy-wait's W_CMD moves it to W_SAMPLE (R196). -/
theorem State.commandSent_wait (h : s.row = some .wi) (hw : s.wst = .cmd) :
    s.commandSent 0x71#8 = { s with wst := .sample } := by
  simp [State.commandSent, h, hw]

/-- Any other command moves nothing. -/
theorem State.commandSent_other (b : Byte) (hr : s.row ≠ some (.cm b)) (hw : s.row = some .wi → s.wst = .cmd → b ≠ 0x71#8) :
    s.commandSent b = s := by
  unfold State.commandSent
  split
  · rename_i c h
    have hbc : b ≠ c := fun hbc => hr (hbc ▸ h)
    simp [hbc]
  · rename_i h
    by_cases hc : s.wst = .cmd
    · simp [hc, hw h hc]
    · simp [hc]
  · rfl

/-- A command sent never changes more than the micro-sequencer and the busy-wait's sub-state. -/
theorem State.commandSent_cases (b : Byte) :
    s.commandSent b = s.advance ∨ s.commandSent b = { s with wst := .sample } ∨ s.commandSent b = s := by
  unfold State.commandSent
  split
  · split <;> simp
  · split <;> simp
  · simp

/-- `DT(b)` with an answer of ok (R82, R193). -/
theorem State.dt_ok (b : Byte) (h : s.nextAnswer = .ok) : s.dt b =
    { s with
      answers := s.answers.tail, answerCtr := s.answerCtr + 1
      trace := s.trace ++ [.data b .ok], lvlDc := .known .high
      upc := ⟨s.upc.seq, s.upc.k + 1⟩ } := by
  unfold State.dt
  rw [State.afterCall_ok _ _ _ _ h, h]
  rfl

/-- `DT(b)` with a failure (R82, R193, R268). -/
theorem State.dt_fail (b : Byte) (e : Terr) (h : s.nextAnswer = .fail e) : s.dt b =
    State.abort { s with
      answers := s.answers.tail, answerCtr := s.answerCtr + 1
      trace := s.trace ++ [.data b (.fail e)], lvlDc := .unknown } e := by
  unfold State.dt
  rw [State.afterCall_fail _ _ e _ _ h, h]
  rfl

/-- `DP(P)` with an answer of ok (R82, R194). -/
theorem State.dp_ok (p : Plane) (h : s.nextAnswer = .ok) : s.dp p =
    State.nextByte { s with
      answers := s.answers.tail, answerCtr := s.answerCtr + 1
      trace := s.trace ++ [.data (s.racedByte p s.pix.toNat) .ok], lvlDc := .known .high } := by
  unfold State.dp
  rw [State.afterCall_ok _ _ _ _ h, h]
  rfl

/-- `DP(P)` with a failure (R82, R194, R268). -/
theorem State.dp_fail (p : Plane) (e : Terr) (h : s.nextAnswer = .fail e) : s.dp p =
    State.abort { s with
      answers := s.answers.tail, answerCtr := s.answerCtr + 1
      trace := s.trace ++ [.data (s.racedByte p s.pix.toNat) (.fail e)], lvlDc := .unknown } e := by
  unfold State.dp
  rw [State.afterCall_fail _ _ e _ _ h, h]
  rfl

/-- PIX's step (R194). -/
theorem State.nextByte_eq : s.nextByte =
    if (s.pix + 1#16).toNat = Config.planeBytes then { s with pix := 0#16, upc := ⟨s.upc.seq, s.upc.k + 1⟩ }
    else { s with pix := s.pix + 1#16 } := rfl

/-- The byte a DP sends is the plane's byte or the old value of a racing host write (R86, R311). -/
theorem State.racedByte_cases (p : Plane) (i : Nat) :
    s.racedByte p i = s.planeByte p i ∨ ∃ r ∈ s.races, r.plane = p ∧ r.index = i ∧ s.racedByte p i = r.old := by
  unfold State.racedByte
  generalize s.races = l
  suffices h : ∀ (l : List Race) (v : Byte),
      let f := fun (cur : Byte) (r : Race) =>
        if r.plane = p ∧ r.index = i ∧ Config.freeRace r.choice = true then r.old else cur
      l.foldl f v = v ∨ ∃ r ∈ l, r.plane = p ∧ r.index = i ∧ l.foldl f v = r.old from h l _
  intro l
  induction l with
  | nil => intro v; exact .inl rfl
  | cons r rest ih =>
    intro v
    simp only [List.foldl_cons]
    by_cases hr : r.plane = p ∧ r.index = i ∧ Config.freeRace r.choice = true
    · rw [if_pos hr]
      rcases ih r.old with h | ⟨q, hq, h1, h2, h3⟩
      · exact .inr ⟨r, by simp, hr.1, hr.2.1, h⟩
      · exact .inr ⟨q, by simp [hq], h1, h2, h3⟩
    · rw [if_neg hr]
      rcases ih v with h | ⟨q, hq, h1, h2, h3⟩
      · exact .inl h
      · exact .inr ⟨q, by simp [hq], h1, h2, h3⟩

/-- `WL(RST, v)` with an answer of ok (R191). -/
theorem State.wl_rst_ok (v : Level) (h : s.nextAnswer = .ok) : s.wl .rst v =
    { s with
      answers := s.answers.tail, answerCtr := s.answerCtr + 1
      trace := s.trace ++ [.line s.cfg.lineRst v .ok], lvlRst := .known v
      upc := ⟨s.upc.seq, s.upc.k + 1⟩ } := by
  unfold State.wl
  rw [State.afterCall_ok _ _ _ _ h, h]
  rfl

/-- `WL(RST, v)` with a failure (R191, R268). -/
theorem State.wl_rst_fail (v : Level) (e : Terr) (h : s.nextAnswer = .fail e) : s.wl .rst v =
    State.abort { s with
      answers := s.answers.tail, answerCtr := s.answerCtr + 1
      trace := s.trace ++ [.line s.cfg.lineRst v (.fail e)], lvlRst := .unknown } e := by
  unfold State.wl
  rw [State.afterCall_fail _ _ e _ _ h, h]
  rfl

/-- The W_SAMPLE sub-step with an answer of ok (R196). -/
theorem State.wiSample_ok (h : s.nextAnswer = .ok) : s.wiSample =
    State.sampled { s with
      answers := s.answers.tail, answerCtr := s.answerCtr + 1
      samples := s.samples.tail, sampleCtr := s.sampleCtr + 1
      trace := s.trace ++ [.sample s.cfg.lineBusy (.ok s.nextSample)] } s.nextSample := by
  unfold State.wiSample State.sampleAnswer
  simp only [h]
  rfl

/-- The W_SAMPLE sub-step with a failure (R196, R268): BSAMPLE stays. -/
theorem State.wiSample_fail (e : Terr) (h : s.nextAnswer = .fail e) : s.wiSample =
    State.abort { s with
      answers := s.answers.tail, answerCtr := s.answerCtr + 1
      trace := s.trace ++ [.sample s.cfg.lineBusy (.fail e)] } e := by
  unfold State.wiSample State.sampleAnswer
  simp only [h]
  rfl

/-- The use of a BUSY level (R196, R199). -/
theorem State.sampled_eq (v : Level) : s.sampled v =
    if v = s.cfg.busyActive then
      { s with bsample := .known v, wst := if 0 < s.cfg.pollDelayMs then .delay else .cmd }
    else { s with bsample := .known v, wst := .cmd, upc := ⟨s.upc.seq, s.upc.k + 1⟩ } := rfl

/-- A block step of an operation whose micro-sequencer is at a row of its listing is that row's micro-operation. -/
theorem State.operationStep_row (seq : Seq) (rows : List MicroOp) (m : MicroOp) (hs : s.upc.seq = seq)
    (hr : rows[s.upc.k]? = some m) : s.operationStep seq rows = .next (s.micro m) := by
  simp [State.operationStep, hs, hr]

/-- If a block step of an operation goes on, it was at a row of its listing. -/
theorem State.operationStep_next (seq : Seq) (rows : List MicroOp) (t : State)
    (h : s.operationStep seq rows = .next t) : s.upc.seq = seq ∧ ∃ m, rows[s.upc.k]? = some m ∧ t = s.micro m := by
  unfold State.operationStep at h
  split at h
  · rename_i hs
    split at h
    · rename_i m hm
      injection h with h
      exact ⟨hs, m, hm, h.symm⟩
    · exact absurd h (by simp)
  · exact absurd h (by simp)

/-- A wire command's step is a data byte or a plane byte of its own exchange, or its command byte (log 16). -/
theorem State.exchangeStep_cases (b : Byte) :
    (∃ d, s.row = some (.dt d) ∧ s.exchange = some b ∧ s.exchangeStep b = s.dt d) ∨
    (∃ p, s.row = some (.dp p) ∧ s.exchange = some b ∧ s.exchangeStep b = s.dp p) ∨
    s.exchangeStep b = s.cm b := by
  unfold State.exchangeStep
  split
  · rename_i d h
    split
    · rename_i hx; exact .inl ⟨d, h, hx, rfl⟩
    · exact .inr (.inr rfl)
  · rename_i p h
    split
    · rename_i hx; exact .inr (.inl ⟨p, h, hx, rfl⟩)
    · exact .inr (.inr rfl)
  · exact .inr (.inr rfl)

end Sys2Proof.Machine
end

