-- ==== Sys2Proof/Certificates/Slice0/Obligations.lean ====
section
/-! DEFINITION. The statements put to the provers, each a rule of spec/ (or derived from rules) about the model. -/

open Sys2Proof
open Sys2Proof.Machine

/-! ## Encodings -/

/-- R101, R103: the encoder's words decode to the instruction they were made from, every operand at every value, and a word
that decodes to an instruction has that instruction's format and op code. -/
def Obligations.DecodeInvertsEncode : Prop :=
  (∀ i : Instr, decode (encode i) = .ok i) ∧
  (∀ (w : Encoded) (i : Instr), decode w = .ok i →
    (i.format = .hostOp ∧ ∃ arg0 arg1, w = .hostOp i.opcode arg0 arg1) ∨ (i.format = .wireCmd ∧ w = .wireCmd i.opcode))

/-- R101, R103, R104: the op map and the operand fields, for every value of every word; R102: the reserved op codes. -/
def Obligations.HostWordsDecodeByTheOpMap : Prop :=
  ∀ (op : Byte) (arg0 arg1 : Word),
    (∀ low high, decode (.hostOp op arg0 arg1) = .ok (.encode low high) ↔
      op = 0x01#8 ∧ low = arg0.extractLsb' 0 8 ∧ high = arg0.extractLsb' 8 8) ∧
    (decode (.hostOp op arg0 arg1) = .ok .init ↔ op = 0x02#8) ∧
    (∀ lw lr, decode (.hostOp op arg0 arg1) = .ok (.render lw lr) ↔ op = 0x03#8 ∧ lw = arg0 ∧ lr = arg1) ∧
    (decode (.hostOp op arg0 arg1) = .ok .sleep ↔ op = 0x04#8) ∧
    (op = 0x00#8 ∨ 5 ≤ op.toNat → decode (.hostOp op arg0 arg1) = .error (.reservedOperation op))

/-- R111, R112: exactly 29 command bytes are defined. -/
def Obligations.CommandBytesDefined : Prop :=
  ∀ b : Byte, (∃ i, decode (.wireCmd b) = .ok i) ↔
    b ∈ [0x00#8, 0x01#8, 0x02#8, 0x04#8, 0x07#8, 0x10#8, 0x11#8, 0x12#8, 0x13#8, 0x15#8, 0x20#8, 0x21#8, 0x22#8, 0x23#8,
      0x24#8, 0x25#8, 0x26#8, 0x27#8, 0x28#8, 0x29#8, 0x30#8, 0x50#8, 0x60#8, 0x61#8, 0x70#8, 0x71#8, 0x80#8, 0x81#8,
      0x82#8]

/-- The words of some table rows, written out from 30_encoding.md R101 and 42_wire_commands.md, decode to their rows. -/
def Obligations.TableWordsDecode : Prop :=
  decode (.hostOp 0b00000001#8 0x0000C040#32 0#32) = .ok (.encode 64#8 192#8) ∧
  decode (.hostOp 0b00000010#8 0xFFFFFFFF#32 0x12345678#32) = .ok .init ∧
  decode (.hostOp 0b00000011#8 0x0000BB80#32 0x0000BB80#32) = .ok (.render 48000#32 48000#32) ∧
  decode (.wireCmd 0b00000000#8) = .ok .panelSetting ∧
  decode (.wireCmd 0b00000001#8) = .ok .powerSetting ∧
  decode (.wireCmd 0b00010011#8) = .ok .dataStartTransmission2 ∧
  decode (.wireCmd 0b00101000#8) = .ok .lutRed3 ∧
  decode (.wireCmd 0b10000010#8) = .ok .vcmDcSetting

/-! ## The step -/

/-- A block turn of a running block is exec of the instruction it decodes, at the state in which the turn is taken; and a
byte at the bench port is run as the command it decodes to (log 14). -/
def Obligations.StepRunsDecodedInstruction : Prop :=
  (∀ (s t : State) (i : Instr), s.blockTurn t → s.run = true → decode s.fetch = .ok i → step s = exec i t) ∧
  (∀ (s : State) (b : Byte) (i : Instr), s.cfg.wf = true → s.bench = some b → decode (.wireCmd b) = .ok i →
    step s = exec i { s with bench := none })

/-- R304: a block that runs nothing does nothing on its turn. -/
def Obligations.IdleBlockDoesNothing : Prop :=
  ∀ s t : State, s.blockTurn t → s.run = false → step s = .next t

/-- Which instruction each row of each listing belongs to (R109, R178, R182, R186, R196): a CM, DT or DP row and the W_CMD
of a busy-wait are fetched as the wire command of their exchange, every other row as the latched operation (log 3, 16). -/
def Obligations.FetchFollowsTheListings : Prop :=
  ∀ s : State,
    (s.lOp = 0x02#8 → ∀ r ∈ ([(0, .init), (1, .init), (2, .init), (3, .init), (4, .init), (5, .init), (6, .powerSetting),
        (7, .powerSetting), (8, .powerSetting), (9, .powerSetting), (10, .powerSetting), (11, .powerOn),
        (13, .panelSetting), (14, .panelSetting), (15, .cmd15), (16, .cmd15), (17, .vcomAndDataIntervalSetting),
        (18, .vcomAndDataIntervalSetting), (19, .vcomAndDataIntervalSetting), (20, .tconSetting), (21, .tconSetting),
        (22, .init), (23, .init)] : List (Nat × Instr)),
      s.upc = ⟨.init, r.1⟩ → decode s.fetch = .ok r.2) ∧
    (s.lOp = 0x03#8 → ∀ r ∈ ([(0, .render s.lArg0 s.lArg1), (1, .render s.lArg0 s.lArg1), (2, .dataStartTransmission1),
        (3, .dataStartTransmission1), (4, .dataStartTransmission2), (5, .dataStartTransmission2),
        (6, .render s.lArg0 s.lArg1), (7, .displayRefresh), (8, .render s.lArg0 s.lArg1), (10, .render s.lArg0 s.lArg1),
        (11, .render s.lArg0 s.lArg1)] : List (Nat × Instr)),
      s.upc = ⟨.render, r.1⟩ → decode s.fetch = .ok r.2) ∧
    (s.lOp = 0x04#8 → ∀ r ∈ ([(0, .sleep), (1, .powerOff), (3, .deepSleep), (4, .deepSleep), (5, .sleep), (6, .sleep)] :
        List (Nat × Instr)), s.upc = ⟨.sleep, r.1⟩ → decode s.fetch = .ok r.2) ∧
    (s.lOp = 0x01#8 → ∀ k, s.upc = ⟨.enc, k⟩ → decode s.fetch = .ok (.encode s.eLow s.eHigh)) ∧
    (∀ u ∈ ([⟨.init, 12⟩, ⟨.render, 9⟩, ⟨.sleep, 2⟩] : List Upc), s.upc = u →
      (s.wst = .cmd → decode s.fetch = .ok .getStatus) ∧
      (s.wst ≠ .cmd → decode s.fetch = decode (.hostOp s.lOp s.lArg0 s.lArg1)))

/-! ## START and completion -/

/-- R34, R36, R170: an accepted START latches the operands and dispatches; a START while RUN = 1 and a write of an even value
to CTRL change nothing; CTRL reads 0. That the latching is done by the host's own step that writes CTRL is DEDUCED (log 2), and the
last two fields of the accepted START are the model's own (log 10, log 11). -/
def Obligations.StartRule : Prop :=
  ∀ (s : State) (v : Nat) (rest : List HostReq),
    (s.hostTurn (.regWrite 3 v) rest → v % 2 = 1 → s.run = false →
      step s = .next { s with
        inputs := rest, lOp := s.op, lArg0 := s.arg0, lArg1 := s.arg1, run := true, resValid := false
        upc := ⟨if s.op = 0x01#8 then .enc else if s.op = 0x02#8 then .init else if s.op = 0x03#8 then .render
          else if s.op = 0x04#8 then .sleep else .rsv, 0⟩
        imgDisturbed := false, races := [] }) ∧
    (s.hostTurn (.regWrite 3 v) rest → (v % 2 = 0 ∨ s.run = true) → step s = .next { s with inputs := rest }) ∧
    (s.hostTurn (.regRead 3) rest → step s = .next { s with inputs := rest, lastRead := some (.word 0#32) })

/-- R102, R264: the step after the START of a reserved OP completes with RESERVED_OPERATION (0x05) and changes nothing
else. -/
def Obligations.ReservedOperationCompletes : Prop :=
  ResultCode.reservedOperation.code = 0x05#32 ∧
  ∀ s t : State, s.blockTurn t → s.run = true → s.upc = ⟨.rsv, 0⟩ → (s.lOp = 0x00#8 ∨ 5 ≤ s.lOp.toNat) →
    step s = .next { t with
      result := .reservedOperation, resErr := none, resValid := true, run := false, upc := ⟨.none, 0⟩ }

/-- R195, R151, R37: FIN and EFIN complete their operation with OK and no payload, and change nothing else. -/
def Obligations.FinishRowsComplete : Prop :=
  ∀ (s : State) (low high : Byte) (lw lr : Word),
    ∀ r ∈ ([(.encode low high, ⟨.enc, 2⟩), (.init, ⟨.init, 23⟩), (.render lw lr, ⟨.render, 11⟩), (.sleep, ⟨.sleep, 6⟩)] :
      List (Instr × Upc)), s.upc = r.2 →
      exec r.1 s = .next { s with result := .ok, resErr := none, resValid := true, run := false, upc := ⟨.none, 0⟩ }

/-! ## The controller's micro-operations -/

/-- R190 at the listings' PH rows (R178, R182, R186): the phase is written, its event emitted, and nothing else changes; the
wire projection drops the event. -/
def Obligations.PhaseRowsWriteThePhase : Prop :=
  (∀ p : Phase, wire [.phase p] = []) ∧
  ∀ (s : State) (lw lr : Word),
    ∀ r ∈ ([(.init, ⟨.init, 0⟩, .resetting), (.init, ⟨.init, 5⟩, .initializing), (.init, ⟨.init, 22⟩, .idle),
      (.render lw lr, ⟨.render, 1⟩, .transmitting), (.render lw lr, ⟨.render, 6⟩, .refreshing),
      (.render lw lr, ⟨.render, 10⟩, .idle), (.sleep, ⟨.sleep, 5⟩, .sleeping)] : List (Instr × Upc × Phase)),
      s.upc = r.2.1 →
      exec r.1 s = .next { s with
        phase := r.2.2, trace := s.trace ++ [.phase r.2.2], upc := ⟨s.upc.seq, s.upc.k + 1⟩ }

/-- R191 at INIT's WL rows k = 1 and 3 (R178, R179): RST low, then high; on failure RST's level is unknown and INIT aborts
with PHASE = Resetting (R268). -/
def Obligations.ResetPulseDrivesRst : Prop :=
  ∀ s : State, ∀ r ∈ ([(1, .low), (3, .high)] : List (Nat × Level)), s.upc = ⟨.init, r.1⟩ →
    (s.nextAnswer = .ok → exec .init s = .next { s with
      answers := s.answers.tail, answerCtr := s.answerCtr + 1
      trace := s.trace ++ [.line s.cfg.lineRst r.2 .ok], lvlRst := .known r.2, upc := ⟨.init, r.1 + 1⟩ }) ∧
    (∀ e, s.nextAnswer = .fail e → exec .init s = .next { s with
      answers := s.answers.tail, answerCtr := s.answerCtr + 1
      trace := s.trace ++ [.line s.cfg.lineRst r.2 (.fail e), .phase .resetting], lvlRst := .unknown
      phase := .resetting, pix := 0#16, wst := .cmd
      result := .transportError, resErr := some e, resValid := true, run := false, upc := ⟨.none, 0⟩ })

/-- R192 at the listings' DL rows: T_RST_MS twice in INIT, 100 ms in RENDER (R178, R182). -/
def Obligations.DelayRowsEmitTheirDelay : Prop :=
  ∀ (s : State) (lw lr : Word),
    ∀ r ∈ ([(.init, ⟨.init, 2⟩, s.cfg.tRstMs), (.init, ⟨.init, 4⟩, s.cfg.tRstMs), (.render lw lr, ⟨.render, 8⟩, 100)] :
      List (Instr × Upc × Nat)), s.upc = r.2.1 →
      exec r.1 s = .next { s with trace := s.trace ++ [.delay r.2.2], upc := ⟨s.upc.seq, s.upc.k + 1⟩ }

/-- R193, R82 at the listings' CM rows (R178, R182, R186): the command byte goes out with DC low and the micro-sequencer
moves to the next row; nothing else changes. -/
def Obligations.CommandRowsSendTheirCommand : Prop :=
  ∀ s : State,
    ∀ r ∈ ([(.powerSetting, ⟨.init, 6⟩, 0x01#8), (.powerOn, ⟨.init, 11⟩, 0x04#8), (.panelSetting, ⟨.init, 13⟩, 0x00#8),
      (.cmd15, ⟨.init, 15⟩, 0x15#8), (.vcomAndDataIntervalSetting, ⟨.init, 17⟩, 0x50#8),
      (.tconSetting, ⟨.init, 20⟩, 0x60#8), (.dataStartTransmission1, ⟨.render, 2⟩, 0x10#8),
      (.dataStartTransmission2, ⟨.render, 4⟩, 0x13#8), (.displayRefresh, ⟨.render, 7⟩, 0x12#8),
      (.powerOff, ⟨.sleep, 1⟩, 0x02#8), (.deepSleep, ⟨.sleep, 3⟩, 0x07#8)] : List (Instr × Upc × Byte)),
      s.upc = r.2.1 → s.nextAnswer = .ok →
      exec r.1 s = .next { s with
        answers := s.answers.tail, answerCtr := s.answerCtr + 1
        trace := s.trace ++ [.cmd r.2.2 .ok], lvlDc := .known .low, upc := ⟨s.upc.seq, s.upc.k + 1⟩ }

/-- R193, R82 at the listings' DT rows: the literal data bytes of R109, each with DC high. -/
def Obligations.DataRowsSendTheirByte : Prop :=
  ∀ s : State,
    ∀ r ∈ ([(.powerSetting, ⟨.init, 7⟩, 0x07#8), (.powerSetting, ⟨.init, 8⟩, 0x07#8), (.powerSetting, ⟨.init, 9⟩, 0x3F#8),
      (.powerSetting, ⟨.init, 10⟩, 0x3F#8), (.panelSetting, ⟨.init, 14⟩, 0x0F#8), (.cmd15, ⟨.init, 16⟩, 0x00#8),
      (.vcomAndDataIntervalSetting, ⟨.init, 18⟩, 0x11#8), (.vcomAndDataIntervalSetting, ⟨.init, 19⟩, 0x07#8),
      (.tconSetting, ⟨.init, 21⟩, 0x22#8), (.deepSleep, ⟨.sleep, 4⟩, 0xA5#8)] : List (Instr × Upc × Byte)),
      s.upc = r.2.1 → s.nextAnswer = .ok →
      exec r.1 s = .next { s with
        answers := s.answers.tail, answerCtr := s.answerCtr + 1
        trace := s.trace ++ [.data r.2.2 .ok], lvlDc := .known .high, upc := ⟨s.upc.seq, s.upc.k + 1⟩ }

/-- R194, R311 at RENDER's DP rows k = 3 and 5: the plane byte at PIX goes out with DC high, PIX steps, and the last byte
moves to the next row; the byte is the plane's, or the old value of a host write that races it. -/
def Obligations.PlaneRowsSendTheirByte : Prop :=
  ∀ s : State,
    ∀ r ∈ ([(.dataStartTransmission1, 3, .pw), (.dataStartTransmission2, 5, .pr)] : List (Instr × Nat × Plane)),
      s.upc = ⟨.render, r.2.1⟩ → s.pix.toNat < 48000 → s.nextAnswer = .ok →
      ∃ b, (b = s.planeByte r.2.2 s.pix.toNat ∨
          ∃ q ∈ s.races, q.plane = r.2.2 ∧ q.index = s.pix.toNat ∧ b = q.old) ∧
        exec r.1 s = .next { s with
          answers := s.answers.tail, answerCtr := s.answerCtr + 1
          trace := s.trace ++ [.data b .ok], lvlDc := .known .high
          pix := if s.pix.toNat + 1 = 48000 then 0#16 else s.pix + 1#16
          upc := if s.pix.toNat + 1 = 48000 then ⟨.render, r.2.1 + 1⟩ else s.upc }

/-- The model's reading of R216 and R193 for the 17 commands no listing sends (log 15): the byte goes out with DC low, and
nothing else changes. No step of a legal state runs one (OnlyListedCommandsAreSent). -/
def Obligations.UnlistedCommandsSendTheirByte : Prop :=
  ∀ s : State,
    ∀ r ∈ ([(.dataStop, 0x11#8), (.lutForVcom, 0x20#8), (.lutBlue, 0x21#8), (.lutWhite, 0x22#8), (.lutGray1, 0x23#8),
      (.lutGray2, 0x24#8), (.lutRed0, 0x25#8), (.lutRed1, 0x26#8), (.lutRed2, 0x27#8), (.lutRed3, 0x28#8),
      (.lutXon, 0x29#8), (.pllControl, 0x30#8), (.tconResolution, 0x61#8), (.revision, 0x70#8),
      (.autoMeasurementVcom, 0x80#8), (.readVcomValue, 0x81#8), (.vcmDcSetting, 0x82#8)] : List (Instr × Byte)),
      s.nextAnswer = .ok →
      exec r.1 s = .next { s with
        answers := s.answers.tail, answerCtr := s.answerCtr + 1
        trace := s.trace ++ [.cmd r.2 .ok], lvlDc := .known .low }

/-- R196 W_CMD, R245: at each of the three busy-waits GET_STATUS goes out with DC low, and the sample is next. -/
def Obligations.GetStatusPrecedesTheSample : Prop :=
  ∀ s : State, ∀ u ∈ ([⟨.init, 12⟩, ⟨.render, 9⟩, ⟨.sleep, 2⟩] : List Upc), s.upc = u → s.wst = .cmd →
    s.nextAnswer = .ok →
    exec .getStatus s = .next { s with
      answers := s.answers.tail, answerCtr := s.answerCtr + 1
      trace := s.trace ++ [.cmd 0x71#8 .ok], lvlDc := .known .low, wst := .sample }

/-- R196 W_SAMPLE and W_DELAY, R199: a busy level loops, by the poll delay if there is one; another level exits to the next
row; a failed sample leaves BSAMPLE and aborts (R268). -/
def Obligations.BusyWaitSamples : Prop :=
  ∀ (s : State) (lw lr : Word),
    ∀ r ∈ ([(.init, ⟨.init, 12⟩), (.render lw lr, ⟨.render, 9⟩), (.sleep, ⟨.sleep, 2⟩)] : List (Instr × Upc)), s.upc = r.2 →
      (s.wst = .sample → s.nextAnswer = .ok → s.nextSample = s.cfg.busyActive →
        exec r.1 s = .next { s with
          answers := s.answers.tail, answerCtr := s.answerCtr + 1
          samples := s.samples.tail, sampleCtr := s.sampleCtr + 1
          trace := s.trace ++ [.sample s.cfg.lineBusy (.ok s.nextSample)], bsample := .known s.nextSample
          wst := if 0 < s.cfg.pollDelayMs then .delay else .cmd }) ∧
      (s.wst = .sample → s.nextAnswer = .ok → s.nextSample ≠ s.cfg.busyActive →
        exec r.1 s = .next { s with
          answers := s.answers.tail, answerCtr := s.answerCtr + 1
          samples := s.samples.tail, sampleCtr := s.sampleCtr + 1
          trace := s.trace ++ [.sample s.cfg.lineBusy (.ok s.nextSample)], bsample := .known s.nextSample
          wst := .cmd, upc := ⟨s.upc.seq, s.upc.k + 1⟩ }) ∧
      (∀ e, s.wst = .sample → s.nextAnswer = .fail e →
        exec r.1 s = .next { s with
          answers := s.answers.tail, answerCtr := s.answerCtr + 1
          trace := s.trace ++ .sample s.cfg.lineBusy (.fail e) :: (if s.upc.seq = .init then [.phase .resetting] else [])
          phase := if s.upc.seq = .init then .resetting else s.phase, pix := 0#16, wst := .cmd
          result := .transportError, resErr := some e, resValid := true, run := false, upc := ⟨.none, 0⟩ }) ∧
      (s.wst = .delay →
        exec r.1 s = .next { s with trace := s.trace ++ [.delay s.cfg.pollDelayMs], wst := .cmd })

/-- R268, R180, R184, R187, R265: a byte transfer that answers fail(e), in any wire command, at any row. The event that stays
in the trace is the row's (R193, R194): at a DT row of the command's own exchange the row's literal byte, at a DP row of it the
byte that DP reads at PIX, else the command byte. DC's level is unknown, INIT's abort writes PHASE = Resetting and emits it, the
operation completes with TRANSPORT_ERROR and the payload, and nothing else changes. Two parts are the model's: that a command at
a row that does not belong to its exchange sends its command byte (DESIGN CHOICE, log 16), and what the 17 commands of no listing
do at all (DEDUCED, log 15). -/
def Obligations.FailedTransferAborts : Prop :=
  ∀ (i : Instr) (s : State) (e : Terr), i.format = .wireCmd → s.nextAnswer = .fail e →
    ∃ ev,
      (∀ d, s.row = some (.dt d) → s.exchange = some i.opcode → ev = .data d (.fail e)) ∧
      (∀ p, s.row = some (.dp p) → s.exchange = some i.opcode → ev = .data (s.racedByte p s.pix.toNat) (.fail e)) ∧
      ((∀ d, s.row = some (.dt d) → s.exchange ≠ some i.opcode) →
        (∀ p, s.row = some (.dp p) → s.exchange ≠ some i.opcode) → ev = .cmd i.opcode (.fail e)) ∧
      exec i s = .next { s with
        answers := s.answers.tail, answerCtr := s.answerCtr + 1
        trace := s.trace ++ ev :: (if s.upc.seq = .init then [.phase .resetting] else [])
        lvlDc := .unknown, phase := if s.upc.seq = .init then .resetting else s.phase, pix := 0#16, wst := .cmd
        result := .transportError, resErr := some e, resValid := true, run := false, upc := ⟨.none, 0⟩ }

/-! ## The checks -/

/-- R183, R262, R263, R270: RENDER's check, the phase first, then both 32-bit lengths. -/
def Obligations.RenderChecksPhaseThenLengths : Prop :=
  ∀ (s : State) (lw lr : Word), s.upc = ⟨.render, 0⟩ →
    (s.phase ≠ .idle → exec (.render lw lr) s = .next { s with
      result := .illegalStateTransition, resErr := none, resValid := true, run := false, upc := ⟨.none, 0⟩ }) ∧
    (s.phase = .idle → (lw.toNat ≠ 48000 ∨ lr.toNat ≠ 48000) → exec (.render lw lr) s = .next { s with
      result := .bufferSizeMismatch, resErr := none, resValid := true, run := false, upc := ⟨.none, 0⟩ }) ∧
    (s.phase = .idle → lw.toNat = 48000 → lr.toNat = 48000 →
      exec (.render lw lr) s = .next { s with pix := 0#16, upc := ⟨.render, 1⟩ })

/-- R187, R263: SLEEP's check. -/
def Obligations.SleepChecksPhase : Prop :=
  ∀ s : State, s.upc = ⟨.sleep, 0⟩ →
    (s.phase ≠ .idle → exec .sleep s = .next { s with
      result := .illegalStateTransition, resErr := none, resValid := true, run := false, upc := ⟨.none, 0⟩ }) ∧
    (s.phase = .idle → exec .sleep s = .next { s with upc := ⟨.sleep, 1⟩ })

/-- R143, R261: ENCODE's check, in any phase, of the size of the image held. Two cases are the model's choice: with no image
presented the size held is 0 x 0, so the answer is DIMENSION_MISMATCH (log 9), and after a change of the image it is the new
image's size that is compared, where R312 and D27 may be read as leaving that answer open (log 10). -/
def Obligations.EncodeChecksImageSize : Prop :=
  ∀ (s : State) (low high : Byte), s.upc = ⟨.enc, 0⟩ →
    ((s.img.width.toNat ≠ 800 ∨ s.img.height.toNat ≠ 480) → exec (.encode low high) s = .next { s with
      result := .dimensionMismatch, resErr := none, resValid := true, run := false, upc := ⟨.none, 0⟩ }) ∧
    (s.img.width.toNat = 800 → s.img.height.toNat = 480 →
      exec (.encode low high) s = .next { s with ey := 0#16, ebx := 0#16, upc := ⟨.enc, 1⟩ })

/-! ## The encoder -/

/-- R144, R145, R155: the class of an intensity, by the two thresholds. -/
def Obligations.ClassifyByThresholds : Prop :=
  ∀ (overlap : OverlapClass) (i low high : Byte),
    (i.toNat < low.toNat → i.toNat < high.toNat → classify overlap i low high = .black) ∧
    (low.toNat ≤ i.toNat → high.toNat ≤ i.toNat → classify overlap i low high = .white) ∧
    (low.toNat ≤ i.toNat → i.toNat < high.toNat → classify overlap i low high = .red) ∧
    (high.toNat ≤ i.toNat → i.toNat < low.toNat →
      classify overlap i low high = match overlap with | .black => .black | .white => .white)

/-- R146, R147, R148: a group step writes the two bytes of the group at the cursor, as R153's frame function has them, and
no other byte; the cursor steps to the next column, or the next row, or past the last group; and nothing else changes. -/
def Obligations.EncodeGroupWritesBothPlanes : Prop :=
  ∀ (s : State) (low high : Byte), s.upc = ⟨.enc, 1⟩ → s.ey.toNat < 480 → s.ebx.toNat < 100 →
    ∃ t, exec (.encode low high) s = .next t ∧
      (∀ p, t.planeByte p (s.ey.toNat * 100 + s.ebx.toNat) =
        encodeFrame s.cfg.overlap s.pixel low high p (s.ey.toNat * 100 + s.ebx.toNat)) ∧
      (∀ p j, j ≠ s.ey.toNat * 100 + s.ebx.toNat → t.planeByte p j = s.planeByte p j) ∧
      t = { s with
        pw := t.pw, pr := t.pr
        ebx := if s.ebx.toNat + 1 = 100 then 0#16 else s.ebx + 1#16
        ey := if s.ebx.toNat + 1 = 100 then s.ey + 1#16 else s.ey
        upc := if s.ebx.toNat + 1 = 100 ∧ s.ey.toNat + 1 = 480 then ⟨.enc, 2⟩ else ⟨.enc, 1⟩ }

/-- R156, R73, R71: from planes that hold a frame's bytes every pixel's class is read back. -/
def Obligations.PixelsReadBack : Prop :=
  ∀ (s : State) (overlap : OverlapClass) (img : Nat → Nat → Byte) (low high : Byte),
    (∀ p i, i < 48000 → s.planeByte p i = encodeFrame overlap img low high p i) →
    ∀ x y, x < 800 → y < 480 → s.decodePixel x y = some (classify overlap (img x y) low high)

/-- R148: ENCODE never writes a pixel whose PW bit is 0 and whose PR bit is 1. -/
def Obligations.NoPixelIsBlackAndRed : Prop :=
  ∀ (overlap : OverlapClass) (img : Nat → Nat → Byte) (low high : Byte) (i o : Nat), o < 8 →
    (encodeFrame overlap img low high .pw i).getLsbD (7 - o) = false →
    (encodeFrame overlap img low high .pr i).getLsbD (7 - o) = false

/-! ## The host's steps -/

/-- R32, R34, R35, R38, R106: what each host register reads; a read changes nothing of the block. -/
def Obligations.HostRegisterReads : Prop :=
  ∀ (s : State) (idx : Nat) (rest : List HostReq), s.hostTurn (.regRead idx) rest →
    ∃ v, step s = .next { s with inputs := rest, lastRead := some v } ∧
      (idx = 0 → v = .word (s.op.setWidth 32)) ∧
      (idx = 1 → v = .word s.arg0) ∧
      (idx = 2 → v = .word s.arg1) ∧
      (idx = 3 → v = .word 0#32) ∧
      (idx = 4 → v = .word (BitVec.ofNat 32 ((if s.run then 1 else 0) + (if s.resValid then 2 else 0)))) ∧
      (idx = 5 → ∀ r ∈ ([(.ok, 0x00), (.dimensionMismatch, 0x01), (.bufferSizeMismatch, 0x02),
        (.illegalStateTransition, 0x03), (.transportError, 0x04), (.reservedOperation, 0x05)] : List (ResultCode × Word)),
        s.result = r.1 → v = .word r.2) ∧
      (idx = 6 → v = .payload s.resErr) ∧
      (idx = 7 → ∀ r ∈ ([(.poweredOff, 0), (.resetting, 1), (.initializing, 2), (.idle, 3), (.transmitting, 4),
        (.refreshing, 5), (.sleeping, 6)] : List (Phase × Word)), s.phase = r.1 → v = .word r.2) ∧
      (8 ≤ idx → v = .word 0#32)

/-- R33, R35: OP, ARG0 and ARG1 store the value cut to their width, whatever RUN is; the read-only registers and the
reserved indices ignore a write. -/
def Obligations.HostRegisterWrites : Prop :=
  ∀ (s : State) (idx v : Nat) (rest : List HostReq), s.hostTurn (.regWrite idx v) rest →
    (idx = 0 → step s = .next { s with inputs := rest, op := BitVec.ofNat 8 v }) ∧
    (idx = 1 → step s = .next { s with inputs := rest, arg0 := BitVec.ofNat 32 v }) ∧
    (idx = 2 → step s = .next { s with inputs := rest, arg1 := BitVec.ofNat 32 v }) ∧
    (4 ≤ idx → step s = .next { s with inputs := rest })

/-- R45, R74, R86: every host access to the planes but the two races of R311 (RacingPlaneAccess), whether or not an operation
runs. A write while no RENDER runs changes its byte and no other; a read gives the byte as it is, unless it is the one a running
ENCODE is writing; past the end a read gives 0 and a write is ignored. For RUN = 1 the spec gives one of these outcomes, that a
read of a byte ENCODE has not yet written returns its old value (R86). The others, a write while ENCODE, INIT or SLEEP runs that
takes effect at once among them, are the model's DESIGN CHOICE: the order of the steps settles them (log 11). -/
def Obligations.HostPlaneAccess : Prop :=
  ∀ (s : State) (p : Plane) (i : Nat) (v : Byte) (rest : List HostReq),
    (s.hostTurn (.planeWrite p i v) rest → i < 48000 → (s.run = false ∨ s.upc.seq ≠ .render) →
      ∃ t, step s = .next t ∧ t.planeByte p i = v ∧ (∀ q j, ¬(q = p ∧ j = i) → t.planeByte q j = s.planeByte q j) ∧
        t = { s with inputs := rest, pw := t.pw, pr := t.pr }) ∧
    (s.hostTurn (.planeRead p i) rest → i < 48000 → ¬(s.run = true ∧ s.upc = ⟨.enc, 1⟩ ∧ i = s.cursorIndex) →
      step s = .next { s with inputs := rest, lastRead := some (.byte (s.planeByte p i)) }) ∧
    (s.hostTurn (.planeWrite p i v) rest → 48000 ≤ i → step s = .next { s with inputs := rest }) ∧
    (s.hostTurn (.planeRead p i) rest → 48000 ≤ i →
      step s = .next { s with inputs := rest, lastRead := some (.byte 0x00#8) })

/-- R311, R86: a host write during RENDER marks the byte's old value as one the DP step may still send (log 11), and a host
read of the byte a running ENCODE is writing gives the old or the new value. -/
def Obligations.RacingPlaneAccess : Prop :=
  ∀ (s : State) (p : Plane) (i : Nat) (v : Byte) (rest : List HostReq), i < 48000 → s.run = true →
    (s.hostTurn (.planeWrite p i v) rest → s.upc.seq = .render →
      ∃ t, step s = .next t ∧ t.planeByte p i = v ∧ (∀ q j, ¬(q = p ∧ j = i) → t.planeByte q j = s.planeByte q j) ∧
        t = { s with
          inputs := rest, pw := t.pw, pr := t.pr
          races := ⟨p, i, s.planeByte p i, s.raceCtr⟩ :: s.races, raceCtr := s.raceCtr + 1 }) ∧
    (s.hostTurn (.planeRead p i) rest → s.upc = ⟨.enc, 1⟩ → s.ebx.toNat < 100 → i = s.ey.toNat * 100 + s.ebx.toNat →
      ∃ b, (b = s.planeByte p i ∨ b = encodeFrame s.cfg.overlap s.pixel s.eLow s.eHigh p i) ∧
        step s = .next { s with inputs := rest, lastRead := some (.byte b), raceCtr := s.raceCtr + 1 })

/-- R300, R301, R51: block reset gives the registers, the sequencer, the cursor and the lines R51's values, whatever runs;
the planes (R303), the trace and everything outside the block stay. What the latched operands become is left open here, as
R51 leaves it (the model's choice, log 12). -/
def Obligations.BlockResetRestoresR51 : Prop :=
  ∀ (s : State) (rest : List HostReq), s.hostTurn .blockReset rest →
    ∃ t, step s = .next t ∧ t = { s with
      inputs := rest
      op := 0x00#8, arg0 := 0#32, arg1 := 0#32, run := false, resValid := false, result := .ok, resErr := none
      phase := .poweredOff, lOp := t.lOp, lArg0 := t.lArg0, lArg1 := t.lArg1, upc := ⟨.none, 0⟩, wst := .cmd
      pix := 0#16, ey := 0#16, ebx := 0#16
      lvlRst := .unknown, lvlCs := .unknown, lvlDc := .unknown, bsample := .unknown }

/-- R80, R312: the host presents an image; one that differs, while an ENCODE runs, leaves that ENCODE's pixels free (log 10).
What differs is the plain data that stands for the image, which is the model's choice (log 29). -/
def Obligations.PresentedImage : Prop :=
  ∀ (s : State) (img : Image) (rest : List HostReq), s.hostTurn (.present img) rest →
    ((s.run = false ∨ s.upc.seq ≠ .enc ∨ img = s.img) → step s = .next { s with inputs := rest, img := img }) ∧
    (s.run = true → s.upc.seq = .enc → img ≠ s.img →
      step s = .next { s with inputs := rest, img := img, imgDisturbed := true, imgEpoch := s.imgEpoch + 1 })

/-- R114, R115, R116, R118: the requests of each of the six program lines, for every operand, and the host's poll and skip steps
(the requests `awaitIdle` and `skipUnlessOk` are the model's own, log 18). R116 has the raw spelling for reserved OP values; that
it expands the same way for 0x01 to 0x04 is the model's DESIGN CHOICE (log 28). -/
def Obligations.HostProgramLines : Prop :=
  (∀ low high, expandLine (.encode low high) =
    [.regWrite 0 0x01, .regWrite 1 ((high <<< 8) ||| low), .regWrite 2 0, .regWrite 3 0x01, .awaitIdle]) ∧
  expandLine .init = [.regWrite 0 0x02, .regWrite 1 0, .regWrite 2 0, .regWrite 3 0x01, .awaitIdle] ∧
  (∀ lw lr, expandLine (.render lw lr) =
    [.regWrite 0 0x03, .regWrite 1 lw, .regWrite 2 lr, .regWrite 3 0x01, .awaitIdle]) ∧
  expandLine .sleep = [.regWrite 0 0x04, .regWrite 1 0, .regWrite 2 0, .regWrite 3 0x01, .awaitIdle] ∧
  (∀ op arg0 arg1, expandLine (.raw op arg0 arg1) =
    [.regWrite 0 op, .regWrite 1 arg0, .regWrite 2 arg1, .regWrite 3 0x01, .awaitIdle]) ∧
  (∀ low high, expandLine (.display low high) =
    [.regWrite 0 0x01, .regWrite 1 ((high <<< 8) ||| low), .regWrite 2 0, .regWrite 3 0x01, .awaitIdle, .skipUnlessOk 5,
      .regWrite 0 0x03, .regWrite 1 48000, .regWrite 2 48000, .regWrite 3 0x01, .awaitIdle]) ∧
  (∀ (s : State) (n : Nat) (rest : List HostReq), s.hostTurn (.skipUnlessOk n) rest →
    step s = .next { s with
      inputs := if s.result = .ok then rest else rest.drop n, lastRead := some (.word s.result.code) }) ∧
  (∀ (s : State) (rest : List HostReq), s.hostTurn .awaitIdle rest → s.run = false →
    step s = .next { s with inputs := rest, lastRead := some (.word s.status) })

/-- R10: when a configuration is well formed, and that a model refuses any other. -/
def Obligations.IllFormedConfigurationsAreRefused : Prop :=
  (∀ c : Config, c.wf = true ↔ 200 ≤ c.tRstMs ∧ c.lineRst ≠ c.lineCs ∧ c.lineRst ≠ c.lineDc ∧ c.lineRst ≠ c.lineBusy ∧
    c.lineCs ≠ c.lineDc ∧ c.lineCs ≠ c.lineBusy ∧ c.lineDc ≠ c.lineBusy) ∧
  (∀ w h : Nat, Config.sizeWf w h = true ↔ 0 < w ∧ 0 < h ∧ w % 8 = 0) ∧
  (∀ s : State, s.cfg.wf = false → step s = .refused .illFormedConfiguration)

/-! ## The wire -/

/-- R81, R82, R83: a byte's bits go out bit 7 first, sampled on the leading edge, with CS low for the whole byte and the clock
idling at SPI_CPOL; a command byte's transfer is that frame with DC low, a data byte's with DC high. CS low is the spec's own
choice from general knowledge (D15, log 22). -/
def Obligations.BytesGoOutMsbFirst : Prop :=
  ∀ (c : Config) (b : Byte),
    (∀ (dc : Level) (j : Nat), j < 8 →
      (byteFrame c dc b).bits[j]? = some (if b.getLsbD (7 - j) then .high else .low)) ∧
    (∀ dc : Level, (byteFrame c dc b).bits.length = 8 ∧ (byteFrame c dc b).leadingEdge = true ∧
      (byteFrame c dc b).cs = .low ∧ (byteFrame c dc b).dc = dc ∧ (byteFrame c dc b).clockIdle = c.spiCpol) ∧
    (WireByte.cmd b).frame c = byteFrame c .low b ∧ (WireByte.data b).frame c = byteFrame c .high b

/-- R202: the event counts of the three controller operations without a poll delay, with `n` samples in the busy-wait. -/
def Obligations.EventCounts : Prop :=
  ∀ (s : State) (n : Nat), s.cfg.pollDelayMs = 0 →
    (initEvents s.cfg n).length = 22 + 2 * (n + 1) ∧ (renderEvents s n).length = 96007 + 2 * (n + 1) ∧
    (sleepEvents s.cfg n).length = 4 + 2 * (n + 1) ∧
    (commandsOf (initEvents s.cfg n)).length = 6 + (n + 1) ∧ (commandsOf (renderEvents s n)).length = 3 + (n + 1) ∧
    (commandsOf (sleepEvents s.cfg n)).length = 2 + (n + 1)

/-- R199: the wire projection of a busy-wait is the same for every POLL_DELAY_MS and BUSY line. -/
def Obligations.PollDelayIsNotOnTheWire : Prop :=
  ∀ (c d : Config) (n : Nat), wire (waitEvents c n) = wire (waitEvents d n) ∧
    wire (waitEvents c n) = List.replicate (n + 1) (.cmd 0x71#8)

/-! ## Frames and whole-machine rules -/

/-- R51: the reset state, where the spec gives a value. -/
def Obligations.ResetState : Prop :=
  State.reset.op = 0x00#8 ∧ State.reset.arg0 = 0#32 ∧ State.reset.arg1 = 0#32 ∧ State.reset.run = false ∧
  State.reset.resValid = false ∧ State.reset.result.code = 0x00#32 ∧ State.reset.resErr = none ∧
  State.reset.phase.code = 0#32 ∧ State.reset.upc = ⟨.none, 0⟩ ∧ State.reset.wst = .cmd ∧ State.reset.pix = 0#16 ∧
  State.reset.ey = 0#16 ∧ State.reset.ebx = 0#16 ∧ State.reset.lvlRst = .unknown ∧ State.reset.lvlCs = .unknown ∧
  State.reset.lvlDc = .unknown ∧ State.reset.bsample = .unknown ∧ State.reset.trace = []

/-- The reset state is legal. -/
def Obligations.ResetIsLegal : Prop := State.reset.Legal

/-- Every step keeps a legal state legal: the micro-sequencer stays in its listing, RUN and NONE go together (R40), PIX and
the cursor stay in range (R40, R41), the phase goes with the sequencer and Initializing is never left over (R38, R171),
RES_ERR is an error value exactly with TRANSPORT_ERROR (R107), both planes keep their canonical form, CS's level stays
unknown (R83). -/
def Obligations.StepKeepsLegal : Prop := ∀ s t : State, s.Legal → step s = .next t → t.Legal

/-- A legal state's step always goes on: no fault and no refusal is reachable (R260, R264). -/
def Obligations.LegalStatesAlwaysStep : Prop := ∀ s : State, s.Legal → ∃ t, step s = .next t

/-- R171, R39: the phase register changes only at the listed steps, along the listed edges. -/
def Obligations.PhaseChangesOnlyAlongEdges : Prop :=
  ∀ s t : State, s.Legal → step s = .next t → t.phase ≠ s.phase →
    (t.phase = .poweredOff ∧ ∃ rest, s.inputs = .blockReset :: rest) ∨
    (t.phase = .resetting ∧ s.upc = ⟨.init, 0⟩) ∨
    (s.phase = .resetting ∧ t.phase = .initializing ∧ s.upc = ⟨.init, 5⟩) ∨
    (s.phase = .initializing ∧ t.phase = .idle ∧ s.upc = ⟨.init, 22⟩) ∨
    (s.phase = .initializing ∧ t.phase = .resetting ∧ s.upc.seq = .init ∧ t.result = .transportError) ∨
    (s.phase = .idle ∧ t.phase = .transmitting ∧ s.upc = ⟨.render, 1⟩) ∨
    (s.phase = .transmitting ∧ t.phase = .refreshing ∧ s.upc = ⟨.render, 6⟩) ∨
    (s.phase = .refreshing ∧ t.phase = .idle ∧ s.upc = ⟨.render, 10⟩) ∨
    (s.phase = .idle ∧ t.phase = .sleeping ∧ s.upc = ⟨.sleep, 5⟩)

/-- R46: no step, of the block or the host, removes or changes an event of the trace. -/
def Obligations.TraceOnlyGrows : Prop := ∀ s t : State, step s = .next t → ∃ evs, t.trace = s.trace ++ evs

/-- R218, R109: from a legal state a step sends no command but the 12 of the listings. -/
def Obligations.OnlyListedCommandsAreSent : Prop :=
  ∀ s t : State, s.Legal → step s = .next t →
    ∃ cs, commandsOf t.trace = commandsOf s.trace ++ cs ∧ ∀ b ∈ cs, b ∈ sentCommands

/-- R154, R39, R152, R146: ENCODE's frame. Only the planes, the cursor, the micro-sequencer, STATUS, RESULT and RES_ERR change;
the planes only in a group step, and there in no byte but the one at the cursor's index. -/
def Obligations.EncodeLeavesTheController : Prop :=
  ∀ (low high : Byte) (s t : State), exec (.encode low high) s = .next t →
    t = { s with
      pw := t.pw, pr := t.pr, ey := t.ey, ebx := t.ebx, upc := t.upc
      run := t.run, resValid := t.resValid, result := t.result, resErr := t.resErr } ∧
    (s.upc.k ≠ 1 → t.pw = s.pw ∧ t.pr = s.pr) ∧
    (∀ p j, j ≠ s.cursorIndex → t.planeByte p j = s.planeByte p j)

/-- R181, R45, R39 and the "flags written" of 41_controller.md and R216: the frame of every instruction but ENCODE. The planes,
the encoder's cursor, the host's and the latched registers, CS, the configuration and everything the host holds stay. -/
def Obligations.ControllerLeavesPlanesAndRegisters : Prop :=
  ∀ (i : Instr) (s t : State), (∀ low high, i ≠ .encode low high) → exec i s = .next t →
    t = { s with
      run := t.run, resValid := t.resValid, result := t.result, resErr := t.resErr, phase := t.phase
      upc := t.upc, wst := t.wst, pix := t.pix, lvlRst := t.lvlRst, lvlDc := t.lvlDc, bsample := t.bsample
      trace := t.trace, answers := t.answers, answerCtr := t.answerCtr, samples := t.samples, sampleCtr := t.sampleCtr }

/-- R315, R33: the values OP, ARG0 and ARG1 hold while an operation runs change nothing of what its block steps do: a step of the
running block, its fetch and decoding with it, has the same outcome whatever stands in them, and leaves them as they are; and so
has every instruction's meaning. -/
def Obligations.OperandRegistersDoNotAffectARunningOperation : Prop :=
  (∀ (s u : State) (op : Byte) (arg0 arg1 : Word), s.blockTurn u → s.run = true →
    (∀ t, step s = .next t → t.op = s.op ∧ t.arg0 = s.arg0 ∧ t.arg1 = s.arg1) ∧
    step { s with op := op, arg0 := arg0, arg1 := arg1 } = match step s with
      | .next t => .next { t with op := op, arg0 := arg0, arg1 := arg1 }
      | .fault f => .fault f
      | .refused r => .refused r) ∧
  (∀ (i : Instr) (s t : State) (op : Byte) (arg0 arg1 : Word), exec i s = .next t →
    exec i { s with op := op, arg0 := arg0, arg1 := arg1 } = .next { t with op := op, arg0 := arg0, arg1 := arg1 })

/-- The four host operations' meanings stop in one way only, exactly when the micro-sequencer is at no row of their listing
(log 3), and no wire command's meaning stops. -/
def Obligations.WhereAnInstructionStops : Prop :=
  ∀ s : State,
    (∀ low high, exec (.encode low high) s = .fault .operationNotRunning ↔ s.upc.seq ≠ .enc ∨ 3 ≤ s.upc.k) ∧
    (exec .init s = .fault .operationNotRunning ↔ s.upc.seq ≠ .init ∨ 24 ≤ s.upc.k) ∧
    (∀ lw lr, exec (.render lw lr) s = .fault .operationNotRunning ↔ s.upc.seq ≠ .render ∨ 12 ≤ s.upc.k) ∧
    (exec .sleep s = .fault .operationNotRunning ↔ s.upc.seq ≠ .sleep ∨ 7 ≤ s.upc.k) ∧
    (∀ i : Instr, (i.format = .hostOp → exec i s = .fault .operationNotRunning ∨ ∃ t, exec i s = .next t) ∧
      (i.format = .wireCmd → ∃ t, exec i s = .next t))

/-! ## Whole operations -/

/-- R178, R201, V1: an INIT that the host leaves alone, with every call answering ok and the panel busy at the first `n`
samples, emits exactly the listing's events and leaves PHASE = Idle and RESULT = OK. -/
def Obligations.InitRunEmitsItsListing : Prop :=
  ∀ (s : State) (n : Nat), s.alone → s.run = true → s.lOp = 0x02#8 → s.upc = ⟨.init, 0⟩ → s.wst = .cmd →
    s.reliableFor (17 + 2 * (n + 1)) → s.busyFor n →
    ∃ t, core.run (23 + waitSteps s.cfg n) s = .next t ∧ t.trace = s.trace ++ initEvents s.cfg n ∧
      exchanges (initEvents s.cfg n) =
        [(0x01#8, [0x07#8, 0x07#8, 0x3F#8, 0x3F#8]), (0x04#8, [])] ++ List.replicate (n + 1) (0x71#8, []) ++
        [(0x00#8, [0x0F#8]), (0x15#8, [0x00#8]), (0x50#8, [0x11#8, 0x07#8]), (0x60#8, [0x22#8])] ∧
      t.phase = .idle ∧ t.result = .ok ∧ t.resErr = none ∧ t.run = false ∧ t.resValid = true ∧
      t.upc = ⟨.none, 0⟩ ∧ t.lvlRst = .known .high ∧ t.lvlDc = .known .high ∧ t.bsample = .known (s.sampleAt n) ∧
      t.pw = s.pw ∧ t.pr = s.pr

/-- R182, V6: a RENDER in Idle with both lengths 48000, left alone, with every call answering ok: it sends both planes in
ascending order, refreshes and waits, and ends in Idle with the planes as they were. -/
def Obligations.RenderRunSendsBothPlanes : Prop :=
  ∀ (s : State) (n : Nat), s.alone → s.run = true → s.lOp = 0x03#8 → s.upc = ⟨.render, 0⟩ → s.wst = .cmd →
    s.phase = .idle → s.lArg0.toNat = 48000 → s.lArg1.toNat = 48000 → s.races = [] →
    s.reliableFor (96003 + 2 * (n + 1)) → s.busyFor n →
    ∃ t, core.run (96009 + waitSteps s.cfg n) s = .next t ∧ t.trace = s.trace ++ renderEvents s n ∧
      t.phase = .idle ∧ t.result = .ok ∧ t.resErr = none ∧ t.run = false ∧ t.resValid = true ∧
      t.upc = ⟨.none, 0⟩ ∧ t.pix = 0#16 ∧ t.lvlDc = .known .low ∧ t.pw = s.pw ∧ t.pr = s.pr

/-- R186, V7: a SLEEP in Idle, left alone, with every call answering ok. -/
def Obligations.SleepRunEmitsItsListing : Prop :=
  ∀ (s : State) (n : Nat), s.alone → s.run = true → s.lOp = 0x04#8 → s.upc = ⟨.sleep, 0⟩ → s.wst = .cmd →
    s.phase = .idle → s.reliableFor (3 + 2 * (n + 1)) → s.busyFor n →
    ∃ t, core.run (6 + waitSteps s.cfg n) s = .next t ∧ t.trace = s.trace ++ sleepEvents s.cfg n ∧
      t.phase = .sleeping ∧ t.result = .ok ∧ t.resErr = none ∧ t.run = false ∧ t.resValid = true ∧
      t.upc = ⟨.none, 0⟩ ∧ t.lvlDc = .known .high ∧ t.pw = s.pw ∧ t.pr = s.pr

/-- R153, R152, R140: an ENCODE of an 800 x 480 image, left alone, takes 48002 block steps and leaves in both planes exactly
the bytes of the frame function, whatever they held and whatever the phase; it emits no event. -/
def Obligations.EncodeRunEqualsTheFrameFunction : Prop :=
  ∀ s : State, s.alone → s.run = true → s.lOp = 0x01#8 → s.upc = ⟨.enc, 0⟩ → s.imgDisturbed = false →
    s.img.width.toNat = 800 → s.img.height.toNat = 480 →
    ∃ t, core.run 48002 s = .next t ∧
      (∀ p i, i < 48000 → t.planeByte p i = encodeFrame s.cfg.overlap s.img.pixel s.eLow s.eHigh p i) ∧
      t.trace = s.trace ∧ t.phase = s.phase ∧ t.result = .ok ∧ t.resErr = none ∧ t.run = false ∧ t.resValid = true ∧
      t.upc = ⟨.none, 0⟩

/-- R198, R196, R199: however long the panel stays busy, with every POLL_DELAY_MS, the block stays in its busy-wait: after `n` busy
polls it has emitted them, each followed by the poll delay if there is one, RUN is 1 and no result is written. -/
def Obligations.BusyPanelHangsTheBlock : Prop :=
  ∀ (s : State) (n : Nat), s.Legal → s.inputs = [] → s.row = some .wi → s.wst = .cmd →
    s.reliableFor (2 * n) → (∀ j, j < n → s.sampleAt j = s.cfg.busyActive) →
    ∃ t, core.run (2 * n + if 0 < s.cfg.pollDelayMs then n else 0) s = .next t ∧ t.run = true ∧ t.upc = s.upc ∧
      t.wst = .cmd ∧ t.resValid = s.resValid ∧ t.result = s.result ∧ t.resErr = s.resErr ∧ t.phase = s.phase ∧
      t.trace = s.trace ++ (List.replicate n (pollEvents s.cfg s.cfg.busyActive ++ pollDelayEvents s.cfg)).flatten
end

