-- ==== Sys2Proof/Laws/Encoder.lean ====
section
/-! SUPPORT. The encoder's arithmetic: a group's byte pair is the frame function's two masks, the bit of a mask at an
offset, and the place of a pixel in its plane. -/

namespace Sys2Proof.Machine

/-- Putting the pixels of a group one by one clears the black bits of the white byte and sets the red bits of the red
byte (R146). -/
theorem putPixel_fold (cls : Nat → PixelClass) (l : List Nat) (w a b : Byte) :
    l.foldl (fun wr o => putPixel (cls o) o wr) (w &&& ~~~a, b) =
      (w &&& ~~~l.foldl (fun acc o => if decide (cls o = .black) then acc ||| offsetMask o else acc) a,
        l.foldl (fun acc o => if decide (cls o = .red) then acc ||| offsetMask o else acc) b) := by
  induction l generalizing a b with
  | nil => rfl
  | cons o rest ih =>
    simp only [List.foldl_cons]
    cases h : cls o
    · rw [show putPixel .black o (w &&& ~~~a, b) = (w &&& ~~~(a ||| offsetMask o), b) by
        simp [putPixel, BitVec.not_or, BitVec.and_assoc], ih]
      simp
    · rw [show putPixel .red o (w &&& ~~~a, b) = (w &&& ~~~a, b ||| offsetMask o) from rfl, ih]
      simp
    · rw [show putPixel .white o (w &&& ~~~a, b) = (w &&& ~~~a, b) from rfl, ih]
      simp

/-- A group's byte pair, as R153 has it. -/
theorem packGroup_eq (cls : Nat → PixelClass) : packGroup cls =
    (0xFF#8 &&& ~~~orMask fun o => decide (cls o = .black), orMask fun o => decide (cls o = .red)) := by
  have h := putPixel_fold cls [0, 1, 2, 3, 4, 5, 6, 7] 0xFF#8 0x00#8 0x00#8
  rw [show 0xFF#8 &&& ~~~0x00#8 = 0xFF#8 from by decide] at h
  exact h

/-- The bit of one offset's mask (R150). -/
theorem offsetMask_bit : ∀ o < 8, ∀ r < 8, (offsetMask r).getLsbD (7 - o) = decide (o = r) := by decide

/-- The bits of a mask, offset by offset. -/
theorem orMask_fold_bit (q : Nat → Bool) (o : Nat) (ho : o < 8) (l : List Nat) (hl : ∀ r ∈ l, r < 8) (acc : Byte) :
    (l.foldl (fun acc r => if q r then acc ||| offsetMask r else acc) acc).getLsbD (7 - o) =
      (acc.getLsbD (7 - o) || (decide (o ∈ l) && q o)) := by
  induction l generalizing acc with
  | nil => simp
  | cons r rest ih =>
    rw [List.foldl_cons, ih (fun x hx => hl x (by simp [hx]))]
    have hr := offsetMask_bit o ho r (hl r (by simp))
    by_cases h : o = r
    · subst h
      cases hq : q o <;> simp_all
    · cases hq : q r <;> simp_all

/-- Offset `o` of a group is bit 7 - o of its bytes (R71, R150). -/
theorem orMask_bit (q : Nat → Bool) (o : Nat) (ho : o < 8) : (orMask q).getLsbD (7 - o) = q o := by
  have hm : o ∈ [0, 1, 2, 3, 4, 5, 6, 7] := by simp; omega
  rw [orMask, orMask_fold_bit q o ho _ (by decide)]
  simp [hm]

/-- A group's white bit is 0 exactly for BLACK, its red bit is 1 exactly for RED (R146, R148). -/
theorem encodeFrame_bit (overlap : OverlapClass) (img : Nat → Nat → Byte) (low high : Byte) (i o : Nat) (ho : o < 8) :
    (encodeFrame overlap img low high .pw i).getLsbD (7 - o) =
      decide (classify overlap (img (8 * (i % Config.bytesPerRow) + o) (i / Config.bytesPerRow)) low high ≠ .black) ∧
    (encodeFrame overlap img low high .pr i).getLsbD (7 - o) =
      decide (classify overlap (img (8 * (i % Config.bytesPerRow) + o) (i / Config.bytesPerRow)) low high = .red) := by
  have hff : ∀ o < 8, (0xFF#8).getLsbD (7 - o) = true := by decide
  constructor
  · simp only [encodeFrame, BitVec.getLsbD_and, BitVec.getLsbD_not, orMask_bit _ o ho, hff o ho]
    simp; omega
  · simp only [encodeFrame, orMask_bit _ o ho]

/-- The bytes EGRP writes are the frame function's at the cursor's index (R146, R153). -/
theorem State.groupBytes_eq (s : State) (low high : Byte) (h : s.ebx.toNat < Config.bytesPerRow) :
    s.groupBytes low high =
      (encodeFrame s.cfg.overlap s.pixel low high .pw s.cursorIndex,
        encodeFrame s.cfg.overlap s.pixel low high .pr s.cursorIndex) := by
  have h1 : s.cursorIndex % Config.bytesPerRow = s.ebx.toNat := by
    simp only [State.cursorIndex, Config.bytesPerRow] at *; omega
  have h2 : s.cursorIndex / Config.bytesPerRow = s.ey.toNat := by
    simp only [State.cursorIndex, Config.bytesPerRow] at *; omega
  simp only [State.groupBytes, encodeFrame, h1, h2, packGroup_eq]

/-- The place of a pixel (R71): its group, its row, its offset. -/
theorem pixelIndex_split (x y : Nat) (hx : x < Config.width) :
    pixelIndex x y % Config.bytesPerRow = x / 8 ∧ pixelIndex x y / Config.bytesPerRow = y ∧
    8 * (pixelIndex x y % Config.bytesPerRow) + x % 8 = x := by
  simp only [pixelIndex, Config.bytesPerRow, Config.width] at *; omega

/-- A masked bit is set exactly when the byte has it (R71). -/
theorem and_pixelMask (b : Byte) (x : Nat) : decide (b &&& pixelMask x ≠ 0x00#8) = b.getLsbD (7 - x % 8) := by
  have h : ∀ o < 8, ∀ b : Byte, decide (b &&& offsetMask o ≠ 0x00#8) = b.getLsbD (7 - o) := by decide
  exact h (x % 8) (Nat.mod_lt x (by decide)) b

/-- The cursor's step, inside the frame (R146). -/
theorem State.nextGroup_eq (s : State) (h1 : s.ebx.toNat < Config.bytesPerRow) (h2 : s.ey.toNat < Config.height) :
    s.nextGroup = { s with
      ebx := if s.ebx.toNat + 1 = Config.bytesPerRow then 0#16 else s.ebx + 1#16
      ey := if s.ebx.toNat + 1 = Config.bytesPerRow then s.ey + 1#16 else s.ey
      upc := if s.ebx.toNat + 1 = Config.bytesPerRow ∧ s.ey.toNat + 1 = Config.height then ⟨s.upc.seq, s.upc.k + 1⟩
        else s.upc } := by
  simp only [Config.bytesPerRow, Config.height] at *
  unfold State.nextGroup State.advance Config.bytesPerRow Config.height
  have e1 : (s.ebx + 1#16).toNat = s.ebx.toNat + 1 := by simp [BitVec.toNat_add]; omega
  have e2 : (s.ey + 1#16).toNat = s.ey.toNat + 1 := by simp [BitVec.toNat_add]; omega
  simp only [e1]
  by_cases ha : s.ebx.toNat + 1 = 100
  · by_cases hb : s.ey.toNat + 1 = 480 <;> simp [ha, hb, e2]
  · have : s.ey.toNat ≠ 480 := by omega
    simp [ha, this]

/-- The cursor's step moves nothing but the cursor and `upc`. -/
theorem State.nextGroup_frame (s : State) :
    s.nextGroup = { s with ey := s.nextGroup.ey, ebx := s.nextGroup.ebx, upc := s.nextGroup.upc } := by
  unfold State.nextGroup State.advance
  simp only
  split <;> split <;> rfl

@[simp] theorem State.nextGroup_planeByte (s : State) (p : Plane) (j : Nat) :
    s.nextGroup.planeByte p j = s.planeByte p j :=
  State.planeByte_congr s _ (by rw [State.nextGroup_frame]) (by rw [State.nextGroup_frame]) p j

/-- EGRP wherever the cursor is (R146, R152): nothing but the planes, the cursor and `upc` changes. -/
theorem State.egrp_frame (s : State) (low high : Byte) :
    s.egrp low high = { s with
      pw := (s.egrp low high).pw, pr := (s.egrp low high).pr, ey := (s.egrp low high).ey, ebx := (s.egrp low high).ebx
      upc := (s.egrp low high).upc } := by
  unfold State.egrp
  simp only
  rw [State.nextGroup_frame, State.setPlaneByte_frame _ .pr, State.setPlaneByte_frame s .pw]

/-- EGRP wherever the cursor is (R146): no byte but the one at the cursor's index is written. -/
theorem State.egrp_other (s : State) (low high : Byte) (p : Plane) (j : Nat) (hj : j ≠ s.cursorIndex) :
    (s.egrp low high).planeByte p j = s.planeByte p j := by
  have hw : ∀ (u : State) (q : Plane) (v : Byte), (u.setPlaneByte q s.cursorIndex v).planeByte p j = u.planeByte p j := by
    intro u q v
    by_cases hi : s.cursorIndex < Config.planeBytes
    · rw [State.planeByte_setPlaneByte _ _ _ _ _ _ hi, if_neg fun h => hj h.2]
    · simp only [State.setPlaneByte, if_neg hi]
  simp only [State.egrp, State.nextGroup_planeByte, hw]

/-- EGRP inside the frame (R146): nothing but the planes, the cursor and `upc` changes. -/
theorem State.egrp_eq (s : State) (low high : Byte) (h1 : s.ebx.toNat < Config.bytesPerRow)
    (h2 : s.ey.toNat < Config.height) :
    s.egrp low high = { s with
      pw := (s.egrp low high).pw, pr := (s.egrp low high).pr
      ebx := if s.ebx.toNat + 1 = Config.bytesPerRow then 0#16 else s.ebx + 1#16
      ey := if s.ebx.toNat + 1 = Config.bytesPerRow then s.ey + 1#16 else s.ey
      upc := if s.ebx.toNat + 1 = Config.bytesPerRow ∧ s.ey.toNat + 1 = Config.height then ⟨s.upc.seq, s.upc.k + 1⟩
        else s.upc } := by
  unfold State.egrp
  have hw : ∀ (u : State) (p : Plane) (i : Nat) (v : Byte), ∃ c d, u.setPlaneByte p i v = { u with pw := c, pr := d } :=
    fun u p i v => ⟨_, _, State.setPlaneByte_frame u p i v⟩
  obtain ⟨a, b, h⟩ := hw s .pw s.cursorIndex (s.groupBytes low high).1
  simp only [h]
  obtain ⟨c, d, h'⟩ := hw { s with pw := a, pr := b } .pr s.cursorIndex (s.groupBytes low high).2
  simp only [h']
  have e := State.nextGroup_eq { s with pw := c, pr := d } h1 h2
  exact e.trans (by rw [e])

/-- EGRP inside the frame (R146): the bytes it writes are the frame function's, every other byte stays. -/
theorem State.egrp_planeByte (s : State) (low high : Byte) (h1 : s.ebx.toNat < Config.bytesPerRow)
    (h2 : s.ey.toNat < Config.height) (p : Plane) (j : Nat) :
    (s.egrp low high).planeByte p j =
      if j = s.cursorIndex then encodeFrame s.cfg.overlap s.pixel low high p j else s.planeByte p j := by
  have hi : s.cursorIndex < Config.planeBytes := by
    simp only [State.cursorIndex, Config.bytesPerRow, Config.height, Config.planeBytes] at *; omega
  unfold State.egrp
  simp only [State.nextGroup_planeByte, State.groupBytes_eq s low high h1]
  rw [State.planeByte_setPlaneByte _ _ _ _ _ _ hi, State.planeByte_setPlaneByte _ _ _ _ _ _ hi]
  by_cases hj : j = s.cursorIndex
  · subst hj; cases p <;> simp
  · simp [hj]

end Sys2Proof.Machine
end

