-- ==== Sys2Proof/Laws/Step.lean ====
section
/-! SUPPORT. What one step can do: a host request, or the block's turn, which from a legal state is the micro-operation at
`upc`, whichever instruction it is fetched as. Proofs about every step cite `step_legal_cases` and do not unfold step. -/

namespace Sys2Proof.Machine

variable (s : State)

/-- On the host's turn the step is the request's. -/
theorem step_hostTurn (r : HostReq) (rest : List HostReq) (h : s.hostTurn r rest) (hb : r ≠ .block)
    (ha : r ≠ .awaitIdle ∨ s.run = false) : step s = .next (State.hostStep { s with inputs := rest } r) := by
  obtain ⟨hw, hn, hi⟩ := h
  cases r <;> simp_all [step, State.benchOrTurn, State.turn]

/-- On the block's turn the step is the block's. -/
theorem step_blockTurn (t : State) (h : s.blockTurn t) : step s = t.blockStep := by
  obtain ⟨hw, hn, ⟨hi, rfl⟩ | ⟨rest, hi, rfl⟩ | ⟨rest, hi, hr, rfl⟩⟩ := h
  · simp [step, hw, State.benchOrTurn, hn, State.turn, hi]
  · simp only [step, hw, State.benchOrTurn, hn, State.turn, hi, if_true]
  · simp [step, hw, State.benchOrTurn, hn, State.turn, hi, hr]

/-- Handing the turn to the block changes nothing but the queue. -/
theorem State.blockTurn_reads (t : State) (h : s.blockTurn t) : ∃ l, t = { s with inputs := l } := by
  obtain ⟨_, _, ⟨_, ht⟩ | ⟨rest, _, ht⟩ | ⟨_, _, _, ht⟩⟩ := h
  exacts [⟨s.inputs, ht⟩, ⟨rest, ht⟩, ⟨s.inputs, ht⟩]

/-- `dispatch`, op code by op code (R170). -/
theorem dispatch_eq (op : Byte) : dispatch op =
    if op = 0x01#8 then .enc else if op = 0x02#8 then .init else if op = 0x03#8 then .render
    else if op = 0x04#8 then .sleep else .rsv := by
  revert op; decide

/-- A reserved op code decodes to an error (R102). -/
theorem decodeHost_reserved (op : Byte) (a0 a1 : Word) (h : dispatch op = .rsv) :
    decodeHost op a0 a1 = .error (.reservedOperation op) := by
  have key : ∀ op : Byte, dispatch op = .rsv → op.toNat ≠ 1 ∧ op.toNat ≠ 2 ∧ op.toNat ≠ 3 ∧ op.toNat ≠ 4 := by decide
  obtain ⟨h1, h2, h3, h4⟩ := key op h
  unfold decodeHost
  split <;> first | contradiction | rfl

/-- An operation's op code from its sequence (R170). -/
theorem op_of_dispatch (op : Byte) :
    (dispatch op = .enc → op = 0x01#8) ∧ (dispatch op = .init → op = 0x02#8) ∧ (dispatch op = .render → op = 0x03#8) ∧
    (dispatch op = .sleep → op = 0x04#8) ∧ dispatch op ≠ .none := by
  revert op; decide

@[simp] theorem decode_hostOp (op : Byte) (a0 a1 : Word) : decode (.hostOp op a0 a1) = decodeHost op a0 a1 := rfl

@[simp] theorem decode_wireCmd (b : Byte) : decode (.wireCmd b) = decodeWire b := rfl

/-- The commands whose exchange has data bytes in a listing (R109). -/
def dataCommands : List Byte := [0x00#8, 0x01#8, 0x07#8, 0x10#8, 0x13#8, 0x15#8, 0x50#8, 0x60#8]

/-- At a CM row the command's instruction sends the command byte. -/
theorem exec_command (b : Byte) (hb : b ∈ sentCommands) : ∃ i, decodeWire b = .ok i ∧
    ∀ u : State, (∀ d, u.row ≠ some (.dt d)) → (∀ p, u.row ≠ some (.dp p)) → exec i u = .next (u.cm b) := by
  have hx : ∀ u : State, (∀ d, u.row ≠ some (.dt d)) → (∀ p, u.row ≠ some (.dp p)) → ∀ c, u.exchangeStep c = u.cm c := by
    intro u h1 h2 c
    obtain ⟨d, h, _⟩ | ⟨p, h, _⟩ | h := State.exchangeStep_cases u c
    exacts [absurd h (h1 d), absurd h (h2 p), h]
  simp only [sentCommands, List.mem_cons, List.not_mem_nil, or_false] at hb
  rcases hb with rfl | rfl | rfl | rfl | rfl | rfl | rfl | rfl | rfl | rfl | rfl | rfl <;>
    exact ⟨_, rfl, fun u h1 h2 => by first | rfl | exact congrArg Host.Outcome.next (hx u h1 h2 _)⟩

/-- At a DT or DP row the instruction of the row's exchange sends the data byte or the plane byte. -/
theorem exec_data (b : Byte) (hb : b ∈ dataCommands) : ∃ i, decodeWire b = .ok i ∧
    ∀ u : State, u.exchange = some b →
      (∀ d, u.row = some (.dt d) → exec i u = .next (u.dt d)) ∧ (∀ p, u.row = some (.dp p) → exec i u = .next (u.dp p)) := by
  simp only [dataCommands, List.mem_cons, List.not_mem_nil, or_false] at hb
  have hx : ∀ (u : State) (c : Byte), u.exchange = some c →
      (∀ d, u.row = some (.dt d) → u.exchangeStep c = u.dt d) ∧ (∀ p, u.row = some (.dp p) → u.exchangeStep c = u.dp p) := by
    intro u c hc
    exact ⟨fun d h => by simp [State.exchangeStep, h, hc], fun p h => by simp [State.exchangeStep, h, hc]⟩
  rcases hb with rfl | rfl | rfl | rfl | rfl | rfl | rfl | rfl <;>
    exact ⟨_, rfl, fun u hc => ⟨fun d h => congrArg Host.Outcome.next ((hx u _ hc).1 d h),
      fun p h => congrArg Host.Outcome.next ((hx u _ hc).2 p h)⟩⟩

/-- Whichever instruction a row is fetched as, its step is the row's micro-operation. -/
theorem exec_fetched (m : MicroOp) (hrow : s.row = some m)
    (hreq : ∃ j, decodeHost s.lOp s.lArg0 s.lArg1 = .ok j ∧
      ∀ l, exec j { s with inputs := l } = .next (State.micro { s with inputs := l } m))
    (hcm : ∀ b, m = .cm b → b ∈ sentCommands)
    (hdata : ∀ d p, m = .dt d ∨ m = .dp p → ∃ b ∈ dataCommands, s.exchange = some b) :
    ∃ i, decode s.fetch = .ok i ∧ ∀ l, exec i { s with inputs := l } = .next (State.micro { s with inputs := l } m) := by
  have hl : ∀ l, State.row { s with inputs := l } = some m := fun _ => hrow
  have hf : s.fetch = match (some m : Option MicroOp) with
      | some (.cm b) => .wireCmd b
      | some (.dt _) => (s.exchange.map Encoded.wireCmd).getD (.hostOp s.lOp s.lArg0 s.lArg1)
      | some (.dp _) => (s.exchange.map Encoded.wireCmd).getD (.hostOp s.lOp s.lArg0 s.lArg1)
      | some .wi => if s.wst = .cmd then .wireCmd 0x71#8 else .hostOp s.lOp s.lArg0 s.lArg1
      | _ => .hostOp s.lOp s.lArg0 s.lArg1 := by
    cases m <;> simp [State.fetch, hrow]
  rw [hf]
  cases m with
  | cm b =>
    obtain ⟨i, hi, hx⟩ := exec_command b (hcm b rfl)
    exact ⟨i, hi, fun l => hx _ (by simp [hl]) (by simp [hl])⟩
  | dt d =>
    obtain ⟨b, hb, he⟩ := hdata d .pw (.inl rfl)
    obtain ⟨i, hi, hx⟩ := exec_data b hb
    refine ⟨i, by simpa [he] using hi, fun l => (hx _ ?_).1 d (hl l)⟩
    exact he
  | dp p =>
    obtain ⟨b, hb, he⟩ := hdata 0#8 p (.inr rfl)
    obtain ⟨i, hi, hx⟩ := exec_data b hb
    refine ⟨i, by simpa [he] using hi, fun l => (hx _ ?_).2 p (hl l)⟩
    exact he
  | wi =>
    by_cases hw : s.wst = .cmd
    · refine ⟨.getStatus, by simp only [if_pos hw]; rfl, fun l => ?_⟩
      simp [exec, execGetStatus, State.micro, State.wi, hw]
    · simpa [hw] using hreq
  | _ => exact hreq

/-- Every row of the four listings meets `exec_fetched`'s conditions. -/
theorem listing_rows (m : MicroOp) (hrow : s.row = some m) :
    (∀ b, m = .cm b → b ∈ sentCommands) ∧
    (∀ d p, m = .dt d ∨ m = .dp p → ∃ b ∈ dataCommands, s.exchange = some b) := by
  obtain ⟨q, k, hu⟩ : ∃ q k, s.upc = ⟨q, k⟩ := ⟨_, _, rfl⟩
  simp only [State.row, State.exchange, State.listing, hu] at hrow ⊢
  cases q with
  | none => simp at hrow
  | rsv => simp at hrow
  | enc =>
    have := List.mem_of_getElem? hrow
    simp only [encListing, List.mem_cons, List.not_mem_nil, or_false] at this
    rcases this with rfl | rfl | rfl <;> simp
  | init =>
    have hk : k < 24 := (List.getElem?_eq_some_iff.mp hrow).1
    interval_cases k <;> (simp only [initListing] at hrow ⊢; injection hrow with h; subst h) <;>
      simp [openedBy, sentCommands, dataCommands]
  | render =>
    have hk : k < 12 := (List.getElem?_eq_some_iff.mp hrow).1
    interval_cases k <;> (simp only [renderListing] at hrow ⊢; injection hrow with h; subst h) <;>
      simp [openedBy, sentCommands, dataCommands]
  | sleep =>
    have hk : k < 7 := (List.getElem?_eq_some_iff.mp hrow).1
    interval_cases k <;> (simp only [sleepListing] at hrow ⊢; injection hrow with h; subst h) <;>
      simp [openedBy, sentCommands, dataCommands]

/-- A command without data bytes in any listing sends its command byte at every row. -/
theorem State.exchangeStep_noData (b : Byte) (hb : b ∉ dataCommands) : s.exchangeStep b = s.cm b := by
  have key : ∀ m, s.row = some m → s.exchange = some b → (∃ d p, m = .dt d ∨ m = .dp p) → False := by
    rintro m hm hx ⟨d, p, h⟩
    obtain ⟨c, hc, he⟩ := (listing_rows s m hm).2 d p h
    exact hb (Option.some.inj (hx.symm.trans he) ▸ hc)
  obtain ⟨d, h, hx, _⟩ | ⟨p, h, hx, _⟩ | h := State.exchangeStep_cases s b
  exacts [(key _ h hx ⟨d, .pw, .inl rfl⟩).elim, (key _ h hx ⟨0#8, p, .inr rfl⟩).elim, h]

/-- Every wire command's meaning is the step of the exchange of its command byte (log 16). -/
theorem exec_wireCmd (i : Instr) (h : i.format = .wireCmd) : exec i s = .next (s.exchangeStep i.opcode) := by
  cases i <;> first
    | exact absurd h (by decide)
    | rfl
    | exact congrArg Host.Outcome.next (State.exchangeStep_noData s _ (by decide)).symm
    | exact absurd h (by simp [Instr.format])

/-- The latched operation's own step at a row is the row's micro-operation. -/
theorem exec_request (m : MicroOp) (hrow : s.row = some m) (hd : s.upc.seq = dispatch s.lOp) :
    ∃ j, decodeHost s.lOp s.lArg0 s.lArg1 = .ok j ∧
      ∀ l, exec j { s with inputs := l } = .next (State.micro { s with inputs := l } m) := by
  obtain ⟨h1, h2, h3, h4, h5⟩ := op_of_dispatch s.lOp
  rw [State.row] at hrow
  cases hq : s.upc.seq with
  | none => exact absurd (hd.symm.trans hq) h5
  | rsv => simp [State.listing, hq] at hrow
  | enc =>
    refine ⟨.encode s.eLow s.eHigh, by rw [h1 (hd ▸ hq)]; rfl, fun l => ?_⟩
    exact State.operationStep_row _ _ _ _ hq (by simpa [State.listing, hq] using hrow)
  | init =>
    refine ⟨.init, by rw [h2 (hd ▸ hq)]; rfl, fun l => ?_⟩
    exact State.operationStep_row _ _ _ _ hq (by simpa [State.listing, hq] using hrow)
  | render =>
    refine ⟨.render s.lArg0 s.lArg1, by rw [h3 (hd ▸ hq)]; rfl, fun l => ?_⟩
    exact State.operationStep_row _ _ _ _ hq (by simpa [State.listing, hq] using hrow)
  | sleep =>
    refine ⟨.sleep, by rw [h4 (hd ▸ hq)]; rfl, fun l => ?_⟩
    exact State.operationStep_row _ _ _ _ hq (by simpa [State.listing, hq] using hrow)

/-- The block's step, when its micro-sequencer is at a row of the listing dispatch chose: the row's micro-operation. -/
theorem blockStep_row (m : MicroOp) (hr : s.run = true) (hd : s.upc.seq = dispatch s.lOp) (hrow : s.row = some m) :
    s.blockStep = .next (s.micro m) := by
  obtain ⟨hcm, hdata⟩ := listing_rows s m hrow
  obtain ⟨i, hi, hx⟩ := exec_fetched s m hrow (exec_request s m hrow hd) hcm hdata
  rw [State.blockStep, if_pos hr, hi]
  exact hx s.inputs

/-- The block's step after the START of a reserved operation: completion with RESERVED_OPERATION (R264). -/
theorem blockStep_reserved (hr : s.run = true) (hd : s.upc.seq = dispatch s.lOp) (hq : s.upc.seq = .rsv) :
    s.blockStep = .next (s.complete .reservedOperation none) := by
  have hrow : s.row = none := by simp [State.row, State.listing, hq]
  rw [State.blockStep, if_pos hr, State.fetch, hrow]
  rw [show decode (.hostOp s.lOp s.lArg0 s.lArg1) = decodeHost s.lOp s.lArg0 s.lArg1 from rfl,
    decodeHost_reserved _ _ _ (hd ▸ hq)]
  rfl

/-- Whose turn it is (R271): the host's, with a request, or the block's. -/
theorem turn_cases (hw : s.cfg.wf = true) (hn : s.bench = none) :
    (∃ r rest, s.hostTurn r rest ∧ r ≠ .block ∧ (r ≠ .awaitIdle ∨ s.run = false)) ∨ ∃ u, s.blockTurn u := by
  cases hi : s.inputs with
  | nil => exact .inr ⟨s, hw, hn, .inl ⟨hi, rfl⟩⟩
  | cons r rest =>
    by_cases hb : r = .block
    · exact .inr ⟨_, hw, hn, .inr (.inl ⟨rest, hb ▸ hi, rfl⟩)⟩
    · by_cases ha : r = .awaitIdle ∧ s.run = true
      · exact .inr ⟨s, hw, hn, .inr (.inr ⟨rest, ha.1 ▸ hi, ha.2, rfl⟩)⟩
      · refine .inl ⟨r, rest, ⟨hw, hn, hi⟩, hb, ?_⟩
        by_cases hr : r = .awaitIdle
        · right; cases hrun : s.run <;> simp_all
        · exact .inl hr

/-- WHAT A STEP OF A LEGAL STATE DOES: a host request; nothing, when the block has nothing to run; the completion of a
reserved operation; or the micro-operation at `upc`. -/
theorem step_legal_cases (hL : s.Legal) :
    (∃ r rest, s.inputs = r :: rest ∧ r ≠ .block ∧ step s = .next (State.hostStep { s with inputs := rest } r)) ∨
    (∃ l, step s = .next { s with inputs := l } ∧ s.run = false) ∨
    (∃ l, step s = .next (State.complete { s with inputs := l } .reservedOperation none) ∧ s.run = true ∧
      s.upc.seq = .rsv) ∨
    (∃ l m, step s = .next (State.micro { s with inputs := l } m) ∧ s.run = true ∧ s.row = some m) := by
  obtain ⟨hw, hn, ⟨hs1, hs2, hs3, hs4⟩, _⟩ := hL
  obtain ⟨r, rest, ht, hb, ha⟩ | ⟨u, hu⟩ := turn_cases s hw hn
  · exact .inl ⟨r, rest, ht.2.2, hb, step_hostTurn s r rest ht hb ha⟩
  · right
    obtain ⟨l, rfl⟩ := State.blockTurn_reads s u hu
    rw [step_blockTurn s _ hu]
    by_cases hr : s.run = true
    swap
    · exact .inl ⟨l, by simp [State.blockStep, hr], by simpa using hr⟩
    · right
      have hseq : s.upc.seq ≠ .none := hs1.mp hr
      by_cases hq : s.upc.seq = .rsv
      · exact .inl ⟨l, blockStep_reserved { s with inputs := l } hr (hs2 hr) hq, hr, hq⟩
      · right
        have hk := hs4 ⟨hseq, hq⟩
        obtain ⟨m, hm⟩ : ∃ m, s.row = some m := ⟨_, List.getElem?_eq_getElem hk⟩
        exact ⟨l, m, blockStep_row { s with inputs := l } m hr (hs2 hr) hm, hr, hm⟩

end Sys2Proof.Machine
end

