-- ==== Sys2Proof/Laws/OperandRegisters.lean ====
section
/-! SUPPORT. No operation of the block reads or writes OP, ARG0 and ARG1 (R33, R315). One lemma per shared operation;
proofs about an instruction cite `State.operationStep_ignoresOperands` or `State.exchangeStep_ignoresOperands`. -/

namespace Sys2Proof.Machine

/-- The state with other values in the operand registers. -/
abbrev State.withOperands (s : State) (op : Byte) (arg0 arg1 : Word) : State :=
  { s with op := op, arg0 := arg0, arg1 := arg1 }

/-- `f` neither reads nor writes the operand registers. -/
def IgnoresOperands (f : State → State) : Prop :=
  ∀ (s : State) (op : Byte) (arg0 arg1 : Word),
    f (s.withOperands op arg0 arg1) = (f s).withOperands op arg0 arg1 ∧
    (f s).op = s.op ∧ (f s).arg0 = s.arg0 ∧ (f s).arg1 = s.arg1

theorem IgnoresOperands.id : IgnoresOperands fun s => s := fun _ _ _ _ => ⟨rfl, rfl, rfl, rfl⟩

theorem IgnoresOperands.comp {f g : State → State} (hf : IgnoresOperands f) (hg : IgnoresOperands g) :
    IgnoresOperands fun s => f (g s) := fun s op a0 a1 => by
  obtain ⟨h, h1, h2, h3⟩ := hg s op a0 a1
  obtain ⟨k, k1, k2, k3⟩ := hf (g s) op a0 a1
  exact ⟨(congrArg f h).trans k, k1.trans h1, k2.trans h2, k3.trans h3⟩

/-- A choice between two, by a condition that does not depend on the operand registers. -/
theorem IgnoresOperands.ite {f g : State → State} (c : State → Prop) [DecidablePred c]
    (hc : ∀ s op a0 a1, c (State.withOperands s op a0 a1) ↔ c s) (hf : IgnoresOperands f) (hg : IgnoresOperands g) :
    IgnoresOperands fun s => if c s then f s else g s := fun s op a0 a1 => by
  by_cases h : c s
  · simpa only [if_pos h, if_pos ((hc s op a0 a1).mpr h)] using hf s op a0 a1
  · simpa only [if_neg h, if_neg (h ∘ (hc s op a0 a1).mp)] using hg s op a0 a1

/-- A choice by a value that does not depend on the operand registers. -/
theorem IgnoresOperands.of_reads {α : Type} (r : State → α) (f : α → State → State)
    (hr : ∀ s op a0 a1, r (State.withOperands s op a0 a1) = r s) (hf : ∀ a, IgnoresOperands (f a)) :
    IgnoresOperands fun s => f (r s) s := fun s op a0 a1 => by
  simpa only [hr s op a0 a1] using hf (r s) s op a0 a1

theorem State.advance_ignoresOperands : IgnoresOperands State.advance := fun _ _ _ _ => ⟨rfl, rfl, rfl, rfl⟩

theorem State.complete_ignoresOperands (c : ResultCode) (e : Option Terr) : IgnoresOperands fun s => s.complete c e :=
  fun _ _ _ _ => ⟨rfl, rfl, rfl, rfl⟩

theorem State.setLvl_ignoresOperands (l : Line) (v : Lvl) : IgnoresOperands fun s => s.setLvl l v := by
  cases l <;> exact fun _ _ _ _ => ⟨rfl, rfl, rfl, rfl⟩

theorem State.setPlaneByte_ignoresOperands (p : Plane) (i : Nat) (v : Byte) :
    IgnoresOperands fun s => s.setPlaneByte p i v := by
  cases p <;> exact .ite (fun _ => i < Config.planeBytes) (fun _ _ _ _ => Iff.rfl) (fun _ _ _ _ => ⟨rfl, rfl, rfl, rfl⟩) .id

theorem State.abort_ignoresOperands (e : Terr) : IgnoresOperands fun s => s.abort e := by
  rw [show (fun s => State.abort s e) = _ from funext fun s => State.abort_eq s e]
  exact fun _ _ _ _ => ⟨rfl, rfl, rfl, rfl⟩

theorem State.afterCall_ignoresOperands (f g h : State → State) (hf : IgnoresOperands f) (hg : IgnoresOperands g)
    (hh : IgnoresOperands h) : IgnoresOperands fun s => (h s).afterCall s.nextAnswer f g :=
  .of_reads State.nextAnswer (fun r s => (h s).afterCall r f g) (fun _ _ _ _ => rfl) fun r => by
    cases r with
    | ok => exact hf.comp hh
    | fail e => exact (State.abort_ignoresOperands e).comp (hg.comp hh)

theorem State.commandSent_ignoresOperands (b : Byte) : IgnoresOperands fun s => s.commandSent b :=
  .of_reads State.row (fun r s => match r with
    | some (.cm c) => if b = c then s.advance else s
    | some .wi => if s.wst = .cmd ∧ b = 0x71#8 then { s with wst := .sample } else s
    | _ => s) (fun _ _ _ _ => rfl) fun r => by
    split
    · exact .ite (fun _ => _) (fun _ _ _ _ => Iff.rfl) State.advance_ignoresOperands .id
    · exact .ite (fun s => s.wst = .cmd ∧ b = 0x71#8) (fun _ _ _ _ => Iff.rfl) (fun _ _ _ _ => ⟨rfl, rfl, rfl, rfl⟩) .id
    · exact .id

theorem State.nextByte_ignoresOperands : IgnoresOperands State.nextByte :=
  .comp (g := fun s => { s with pix := s.pix + 1#16 })
    (.ite (fun s => s.pix.toNat = Config.planeBytes) (fun _ _ _ _ => Iff.rfl)
      (f := fun s => State.advance { s with pix := 0#16 }) (fun _ _ _ _ => ⟨rfl, rfl, rfl, rfl⟩) .id)
    fun _ _ _ _ => ⟨rfl, rfl, rfl, rfl⟩

theorem State.nextGroup_ignoresOperands : IgnoresOperands State.nextGroup := by
  have row : IgnoresOperands fun s => if s.ebx.toNat = Config.bytesPerRow then
      { s with ebx := 0#16, ey := s.ey + 1#16 } else s :=
    .ite (fun s => s.ebx.toNat = Config.bytesPerRow) (fun _ _ _ _ => Iff.rfl) (fun _ _ _ _ => ⟨rfl, rfl, rfl, rfl⟩) .id
  have last : IgnoresOperands fun s => if s.ey.toNat = Config.height then s.advance else s :=
    .ite (fun s => s.ey.toNat = Config.height) (fun _ _ _ _ => Iff.rfl) State.advance_ignoresOperands .id
  exact last.comp (row.comp (g := fun s => { s with ebx := s.ebx + 1#16 }) fun _ _ _ _ => ⟨rfl, rfl, rfl, rfl⟩)

theorem State.egrp_ignoresOperands (low high : Byte) : IgnoresOperands fun s => s.egrp low high :=
  .comp State.nextGroup_ignoresOperands
    (.of_reads (fun s => (s.cursorIndex, s.groupBytes low high))
      (fun r s => (s.setPlaneByte .pw r.1 r.2.1).setPlaneByte .pr r.1 r.2.2) (fun _ _ _ _ => rfl)
      fun _ => (State.setPlaneByte_ignoresOperands _ _ _).comp (State.setPlaneByte_ignoresOperands _ _ _))

theorem State.wl_ignoresOperands (l : Line) (v : Level) : IgnoresOperands fun s => s.wl l v :=
  State.afterCall_ignoresOperands _ _ (fun s => s.popAnswer.emit (.line (s.cfg.lineId l) v s.nextAnswer))
    (State.advance_ignoresOperands.comp (State.setLvl_ignoresOperands _ _)) (State.setLvl_ignoresOperands _ _)
    fun _ _ _ _ => ⟨rfl, rfl, rfl, rfl⟩

theorem State.cm_ignoresOperands (b : Byte) : IgnoresOperands fun s => s.cm b :=
  State.afterCall_ignoresOperands _ _ (fun s => s.popAnswer.emit (.cmd b s.nextAnswer))
    ((State.commandSent_ignoresOperands b).comp (State.setLvl_ignoresOperands _ _)) (State.setLvl_ignoresOperands _ _)
    fun _ _ _ _ => ⟨rfl, rfl, rfl, rfl⟩

theorem State.dt_ignoresOperands (b : Byte) : IgnoresOperands fun s => s.dt b :=
  State.afterCall_ignoresOperands _ _ (fun s => s.popAnswer.emit (.data b s.nextAnswer))
    (State.advance_ignoresOperands.comp (State.setLvl_ignoresOperands _ _)) (State.setLvl_ignoresOperands _ _)
    fun _ _ _ _ => ⟨rfl, rfl, rfl, rfl⟩

theorem State.dp_ignoresOperands (p : Plane) : IgnoresOperands fun s => s.dp p :=
  State.afterCall_ignoresOperands _ _ (fun s => s.popAnswer.emit (.data (s.racedByte p s.pix.toNat) s.nextAnswer))
    (State.nextByte_ignoresOperands.comp (State.setLvl_ignoresOperands _ _)) (State.setLvl_ignoresOperands _ _)
    fun _ _ _ _ => ⟨rfl, rfl, rfl, rfl⟩

theorem State.sampled_ignoresOperands (v : Level) : IgnoresOperands fun s => s.sampled v :=
  .ite (fun s => v = s.cfg.busyActive) (fun _ _ _ _ => Iff.rfl)
    (f := fun s => { s with bsample := .known v, wst := if 0 < s.cfg.pollDelayMs then .delay else .cmd })
    (g := fun s => State.advance { s with bsample := .known v, wst := .cmd })
    (fun _ _ _ _ => ⟨rfl, rfl, rfl, rfl⟩) fun _ _ _ _ => ⟨rfl, rfl, rfl, rfl⟩

theorem State.wiSample_ignoresOperands : IgnoresOperands State.wiSample :=
  .of_reads (fun s => (s.nextAnswer, s.nextSample, Event.sample (s.cfg.lineId .busy) s.sampleAnswer))
    (fun r s => match r.1 with
      | .ok => (s.popAnswer.popSample.emit r.2.2).sampled r.2.1
      | .fail e => (s.popAnswer.emit r.2.2).abort e) (fun _ _ _ _ => rfl) fun r => by
    split
    · exact (State.sampled_ignoresOperands _).comp (g := fun s => s.popAnswer.popSample.emit r.2.2)
        fun _ _ _ _ => ⟨rfl, rfl, rfl, rfl⟩
    · exact (State.abort_ignoresOperands _).comp (g := fun s => s.popAnswer.emit r.2.2) fun _ _ _ _ => ⟨rfl, rfl, rfl, rfl⟩

theorem State.wi_ignoresOperands : IgnoresOperands State.wi :=
  .of_reads State.wst (fun w s => match w with
    | .cmd => s.cm 0x71#8
    | .sample => s.wiSample
    | .delay => s.wiDelay) (fun _ _ _ _ => rfl) fun w => by
    cases w with
    | cmd => exact State.cm_ignoresOperands _
    | sample => exact State.wiSample_ignoresOperands
    | delay => exact fun _ _ _ _ => ⟨rfl, rfl, rfl, rfl⟩

/-- No micro-operation reads or writes the operand registers (R315). -/
theorem State.micro_ignoresOperands (m : MicroOp) : IgnoresOperands fun s => s.micro m := by
  cases m with
  | wl l v => exact State.wl_ignoresOperands l v
  | cm b => exact State.cm_ignoresOperands b
  | dt b => exact State.dt_ignoresOperands b
  | dp p => exact State.dp_ignoresOperands p
  | wi => exact State.wi_ignoresOperands
  | rchk lw lr =>
    exact .ite (fun s => s.phase ≠ .idle) (fun _ _ _ _ => Iff.rfl) (State.complete_ignoresOperands _ _)
      (.ite (fun _ => lw.toNat ≠ Config.planeBytes ∨ lr.toNat ≠ Config.planeBytes) (fun _ _ _ _ => Iff.rfl)
        (State.complete_ignoresOperands _ _) fun _ _ _ _ => ⟨rfl, rfl, rfl, rfl⟩)
  | schk =>
    exact .ite (fun s => s.phase ≠ .idle) (fun _ _ _ _ => Iff.rfl) (State.complete_ignoresOperands _ _)
      State.advance_ignoresOperands
  | echk =>
    exact .ite (fun s => s.img.width.toNat ≠ Config.width ∨ s.img.height.toNat ≠ Config.height)
      (fun _ _ _ _ => Iff.rfl) (State.complete_ignoresOperands _ _) fun _ _ _ _ => ⟨rfl, rfl, rfl, rfl⟩
  | egrp low high => exact State.egrp_ignoresOperands low high
  | _ => exact fun _ _ _ _ => ⟨rfl, rfl, rfl, rfl⟩

/-- A wire command's step neither (R315). -/
theorem State.exchangeStep_ignoresOperands (b : Byte) : IgnoresOperands fun s => s.exchangeStep b :=
  .of_reads State.row (fun r s => match r with
    | some (.dt d) => if s.exchange = some b then s.dt d else s.cm b
    | some (.dp p) => if s.exchange = some b then s.dp p else s.cm b
    | _ => s.cm b) (fun _ _ _ _ => rfl) fun r => by
    split
    · exact .ite (fun s => s.exchange = some b) (fun _ _ _ _ => Iff.rfl) (State.dt_ignoresOperands _)
        (State.cm_ignoresOperands b)
    · exact .ite (fun s => s.exchange = some b) (fun _ _ _ _ => Iff.rfl) (State.dp_ignoresOperands _)
        (State.cm_ignoresOperands b)
    · exact State.cm_ignoresOperands b

/-- A host operation's step: the same outcome whatever stands in the operand registers (R315). -/
theorem State.operationStep_ignoresOperands (s : State) (seq : Seq) (rows : List MicroOp) (op : Byte) (arg0 arg1 : Word) :
    (∃ t, s.operationStep seq rows = .next t ∧
      (s.withOperands op arg0 arg1).operationStep seq rows = .next (t.withOperands op arg0 arg1) ∧
      t.op = s.op ∧ t.arg0 = s.arg0 ∧ t.arg1 = s.arg1) ∨
    (s.operationStep seq rows = .fault .operationNotRunning ∧
      (s.withOperands op arg0 arg1).operationStep seq rows = .fault .operationNotRunning) := by
  simp only [State.operationStep]
  split
  · cases rows[s.upc.k]? with
    | none => exact .inr ⟨rfl, rfl⟩
    | some m =>
      obtain ⟨h, h1⟩ := State.micro_ignoresOperands m s op arg0 arg1
      exact .inl ⟨_, rfl, congrArg Host.Outcome.next h, h1⟩
  · exact .inr ⟨rfl, rfl⟩

end Sys2Proof.Machine
end

