-- ==== Sys2Proof/Laws/Run.lean ====
section
/-! SUPPORT. Runs of a block that the host leaves alone: composing runs, the busy-wait, a plane transmission, the encoder's
groups. Proofs about whole operations cite these and do not step through them. -/

namespace Sys2Proof.Machine

variable (s : State)

/-- One step and then the rest, for any machine. -/
theorem run_step_of (M : Host.Core) (n : Nat) (u t : M.State) (h : M.step u = .next t) : M.run (n + 1) u = M.run n t := by
  rw [Host.Core.run, h]

/-- A run of `a + b` steps is a run of `a` and then one of `b`, for any machine. -/
theorem run_add_of (M : Host.Core) (a b : Nat) (u t : M.State) (h : M.run a u = .next t) :
    M.run (a + b) u = M.run b t := by
  induction a generalizing u with
  | zero =>
    rw [Host.Core.run] at h
    injection h with h
    rw [h, Nat.zero_add]
  | succ a ih =>
    rw [Nat.succ_add]
    rw [Host.Core.run] at h ⊢
    cases hst : M.step u with
    | next v => rw [hst] at h; exact ih v h
    | fault r => rw [hst] at h; exact absurd h (by simp)
    | refused r => rw [hst] at h; exact absurd h (by simp)

/-- One step and then the rest. -/
theorem core_run_step (n : Nat) (t : State) (h : step s = .next t) : core.run (n + 1) s = core.run n t :=
  run_step_of core n s t h

/-- A run of `a + b` steps is a run of `a` and then one of `b`. -/
theorem core_run_add (a b : Nat) (t : State) (h : core.run a s = .next t) : core.run (a + b) s = core.run b t :=
  run_add_of core a b s t h

/-- A running block left alone takes the micro-operation at `upc`. -/
theorem step_alone_row (m : MicroOp) (ha : s.alone) (hr : s.run = true) (hd : s.upc.seq = dispatch s.lOp)
    (hm : s.row = some m) : step s = .next (s.micro m) := by
  rw [step_blockTurn s s ⟨ha.1, ha.2.1, .inl ⟨ha.2.2, rfl⟩⟩]
  exact blockStep_row s m hr hd hm

/-- A level that is not the busy one is the idle one. -/
theorem level_idle (c : Config) (v : Level) (h : v ≠ c.busyActive) : v = idleLevel c := by
  unfold idleLevel
  cases hb : c.busyActive <;> cases v <;> simp_all

/-- The answers and levels a state with shifted draws will get. -/
theorem answerAt_drop (t : State) (k j : Nat) (h1 : t.answers = s.answers.drop k) (h2 : t.answerCtr = s.answerCtr + k) :
    t.answerAt j = s.answerAt (k + j) := by
  simp [State.answerAt, h1, h2, Nat.add_assoc]

theorem sampleAt_drop (t : State) (k j : Nat) (h1 : t.samples = s.samples.drop k) (h2 : t.sampleCtr = s.sampleCtr + k) :
    t.sampleAt j = s.sampleAt (k + j) := by
  simp [State.sampleAt, h1, h2, Nat.add_assoc]

/-- W_CMD (R196), with an answer of ok. -/
theorem wait_cmd_step (ha : s.alone) (hr : s.run = true) (hd : s.upc.seq = dispatch s.lOp) (hm : s.row = some .wi)
    (hw : s.wst = .cmd) (h0 : s.answerAt 0 = .ok) :
    step s = .next { s with
      answers := s.answers.tail, answerCtr := s.answerCtr + 1
      trace := s.trace ++ [.cmd 0x71#8 .ok], lvlDc := .known .low, wst := .sample } := by
  rw [step_alone_row s .wi ha hr hd hm]
  simp only [State.micro, State.wi, hw]
  rw [State.cm_ok _ _ ((State.nextAnswer_eq s).trans h0)]
  exact congrArg Host.Outcome.next (State.commandSent_wait _ hm hw)

/-- W_SAMPLE (R196), with an answer of ok. -/
theorem wait_sample_step (ha : s.alone) (hr : s.run = true) (hd : s.upc.seq = dispatch s.lOp) (hm : s.row = some .wi)
    (hw : s.wst = .sample) (h0 : s.answerAt 0 = .ok) :
    step s = .next (State.sampled { s with
      answers := s.answers.tail, answerCtr := s.answerCtr + 1
      samples := s.samples.tail, sampleCtr := s.sampleCtr + 1
      trace := s.trace ++ [.sample s.cfg.lineBusy (.ok (s.sampleAt 0))] } (s.sampleAt 0)) := by
  rw [step_alone_row s .wi ha hr hd hm]
  simp only [State.micro, State.wi, hw]
  rw [State.wiSample_ok _ ((State.nextAnswer_eq s).trans h0), State.nextSample_eq]
  simp only [hw]

/-- W_DELAY (R196, R199). -/
theorem wait_delay_step (ha : s.alone) (hr : s.run = true) (hd : s.upc.seq = dispatch s.lOp) (hm : s.row = some .wi)
    (hw : s.wst = .delay) :
    step s = .next { s with trace := s.trace ++ [.delay s.cfg.pollDelayMs], wst := .cmd } := by
  rw [step_alone_row s .wi ha hr hd hm]
  simp only [State.micro, State.wi, hw]
  rfl

/-- One poll of a busy-wait (R196): GET_STATUS and its sample. -/
theorem poll_run (ha : s.alone) (hr : s.run = true) (hd : s.upc.seq = dispatch s.lOp) (hm : s.row = some .wi)
    (hw : s.wst = .cmd) (h0 : s.answerAt 0 = .ok) (h1 : s.answerAt 1 = .ok) :
    core.run 2 s = .next (State.sampled { s with
      answers := s.answers.drop 2, answerCtr := s.answerCtr + 2
      samples := s.samples.drop 1, sampleCtr := s.sampleCtr + 1
      trace := s.trace ++ pollEvents s.cfg (s.sampleAt 0), lvlDc := .known .low, wst := .sample } (s.sampleAt 0)) := by
  have e1 := wait_cmd_step s ha hr hd hm hw h0
  obtain ⟨u, hu⟩ : ∃ u : State, u = { s with
      answers := s.answers.tail, answerCtr := s.answerCtr + 1
      trace := s.trace ++ [.cmd 0x71#8 .ok], lvlDc := .known .low, wst := .sample } := ⟨_, rfl⟩
  rw [← hu] at e1
  have e2 := wait_sample_step u (hu ▸ ha) (hu ▸ hr) (hu ▸ hd) (hu ▸ hm) (by rw [hu])
    (by rw [answerAt_drop s u 1 0 (by simp [hu]) (by rw [hu]), h1])
  have hs : u.sampleAt 0 = s.sampleAt 0 := by rw [hu]; rfl
  refine (core_run_step s 1 u e1).trans ((core_run_step u 0 _ e2).trans ?_)
  rw [hs, hu]
  have ht : s.answers.tail.tail = s.answers.drop 2 := by rcases s.answers with _ | ⟨_, _ | _⟩ <;> rfl
  simp [Host.Core.run, pollEvents, ht, Nat.add_assoc]

/-- A busy poll and the delay after it, if there is one (R196, R199): the block is at its next poll. -/
theorem busy_poll_run (ha : s.alone) (hr : s.run = true) (hd : s.upc.seq = dispatch s.lOp) (hm : s.row = some .wi)
    (hw : s.wst = .cmd) (h0 : s.answerAt 0 = .ok) (h1 : s.answerAt 1 = .ok) (hbz : s.sampleAt 0 = s.cfg.busyActive) :
    core.run (2 + if 0 < s.cfg.pollDelayMs then 1 else 0) s = .next { s with
      answers := s.answers.drop 2, answerCtr := s.answerCtr + 2
      samples := s.samples.drop 1, sampleCtr := s.sampleCtr + 1
      trace := s.trace ++ (pollEvents s.cfg s.cfg.busyActive ++ pollDelayEvents s.cfg)
      lvlDc := .known .low, bsample := .known s.cfg.busyActive } := by
  have hp := poll_run s ha hr hd hm hw h0 h1
  rw [State.sampled_eq, if_pos hbz, hbz] at hp
  by_cases hdl : 0 < s.cfg.pollDelayMs
  · rw [if_pos hdl] at hp ⊢
    obtain ⟨v, hv⟩ : ∃ v : State, v = { s with
        answers := s.answers.drop 2, answerCtr := s.answerCtr + 2
        samples := s.samples.drop 1, sampleCtr := s.sampleCtr + 1
        trace := s.trace ++ pollEvents s.cfg s.cfg.busyActive, lvlDc := .known .low
        bsample := .known s.cfg.busyActive, wst := .delay } := ⟨_, rfl⟩
    have hp' : core.run 2 s = .next v := by rw [hv]; exact hp
    have e := wait_delay_step v (hv ▸ ha) (hv ▸ hr) (hv ▸ hd) (hv ▸ hm) (by rw [hv])
    refine (core_run_add s 2 1 v hp').trans ((core_run_step v 0 _ e).trans ?_)
    rw [hv]
    simp [Host.Core.run, pollDelayEvents, hdl, hw]
  · rw [if_neg hdl] at hp ⊢
    refine hp.trans ?_
    simp [pollDelayEvents, hdl, hw]

/-- A whole busy-wait with `n` busy samples before the one that exits it (R196, R199). -/
theorem wait_run (n : Nat) (ha : s.alone) (hr : s.run = true) (hd : s.upc.seq = dispatch s.lOp) (hm : s.row = some .wi)
    (hw : s.wst = .cmd) (hok : s.reliableFor (2 * (n + 1))) (hb : s.busyFor n) :
    core.run (waitSteps s.cfg n) s = .next { s with
      answers := s.answers.drop (2 * (n + 1)), answerCtr := s.answerCtr + 2 * (n + 1)
      samples := s.samples.drop (n + 1), sampleCtr := s.sampleCtr + (n + 1)
      trace := s.trace ++ waitEvents s.cfg n, lvlDc := .known .low, bsample := .known (s.sampleAt n)
      upc := ⟨s.upc.seq, s.upc.k + 1⟩ } := by
  induction n generalizing s with
  | zero =>
    have hne : s.sampleAt 0 ≠ s.cfg.busyActive := hb.2
    have hp := poll_run s ha hr hd hm hw (hok 0 (by omega)) (hok 1 (by omega))
    rw [State.sampled_eq, if_neg hne] at hp
    have hs : waitSteps s.cfg 0 = 2 := by simp [waitSteps]
    rw [hs]
    refine hp.trans ?_
    simp [waitEvents, level_idle s.cfg _ hne, hw]
  | succ n ih =>
    have hq := busy_poll_run s ha hr hd hm hw (hok 0 (by omega)) (hok 1 (by omega)) (hb.1 0 (by omega))
    obtain ⟨u, hu⟩ : ∃ u : State, u = { s with
        answers := s.answers.drop 2, answerCtr := s.answerCtr + 2
        samples := s.samples.drop 1, sampleCtr := s.sampleCtr + 1
        trace := s.trace ++ (pollEvents s.cfg s.cfg.busyActive ++ pollDelayEvents s.cfg)
        lvlDc := .known .low, bsample := .known s.cfg.busyActive } := ⟨_, rfl⟩
    rw [← hu] at hq
    have hs : waitSteps s.cfg (n + 1) = (2 + if 0 < s.cfg.pollDelayMs then 1 else 0) + waitSteps s.cfg n := by
      simp only [waitSteps]; split <;> omega
    have hc : u.cfg = s.cfg := by rw [hu]
    have ha2 : ∀ j, u.answerAt j = s.answerAt (2 + j) := fun j => answerAt_drop s u 2 j (by rw [hu]) (by rw [hu])
    have hs1 : ∀ j, u.sampleAt j = s.sampleAt (1 + j) := fun j => sampleAt_drop s u 1 j (by rw [hu]) (by rw [hu])
    have hv := ih u (hu ▸ ha) (hu ▸ hr) (hu ▸ hd) (hu ▸ hm) (hu ▸ hw)
      (fun j hj => by rw [ha2]; exact hok _ (by omega))
      ⟨fun j hj => by rw [hs1, hc]; exact hb.1 _ (by omega), by rw [hs1, hc, Nat.add_comm]; exact hb.2⟩
    rw [hs1, hc, Nat.add_comm 1 n] at hv
    rw [hs]
    refine (core_run_add s _ _ u hq).trans (hv.trans ?_)
    have e1 : (s.answers.drop 2).drop (2 * (n + 1)) = s.answers.drop (2 * (n + 1 + 1)) := by
      rw [List.drop_drop]; congr 1; omega
    have e2 : (s.samples.drop 1).drop (n + 1) = s.samples.drop (n + 1 + 1) := by rw [List.drop_drop]; congr 1; omega
    have e3 : s.answerCtr + 2 + 2 * (n + 1) = s.answerCtr + 2 * (n + 1 + 1) := by omega
    have e4 : s.sampleCtr + 1 + (n + 1) = s.sampleCtr + (n + 1 + 1) := by omega
    rw [hu]
    simp only [e1, e2, e3, e4, waitEvents, List.append_assoc, hw]

/-- One byte of a plane transmission that is not its last (R194), with no racing write. -/
theorem dp_step (p : Plane) (ha : s.alone) (hr : s.run = true) (hd : s.upc.seq = dispatch s.lOp)
    (hm : s.row = some (.dp p)) (hx : s.races = []) (h0 : s.answerAt 0 = .ok) :
    step s = .next (State.nextByte { s with
      answers := s.answers.tail, answerCtr := s.answerCtr + 1
      trace := s.trace ++ [.data (s.planeByte p s.pix.toNat) .ok], lvlDc := .known .high }) := by
  rw [step_alone_row s _ ha hr hd hm]
  simp only [State.micro]
  rw [State.dp_ok _ _ ((State.nextAnswer_eq s).trans h0)]
  have hb : s.racedByte p s.pix.toNat = s.planeByte p s.pix.toNat := by simp [State.racedByte, hx]
  rw [hb]

/-- PIX a number of bytes on. -/
theorem pix_add_toNat (x : BitVec 16) (n : Nat) (h : x.toNat + n < 2 ^ 16) : (x + BitVec.ofNat 16 n).toNat = x.toNat + n := by
  rw [BitVec.toNat_add, BitVec.toNat_ofNat]; omega

/-- The first `n + 1` bytes of a plane transmission, short of its end (R194). -/
theorem dp_run (p : Plane) (n : Nat) (ha : s.alone) (hr : s.run = true) (hd : s.upc.seq = dispatch s.lOp)
    (hm : s.row = some (.dp p)) (hx : s.races = []) (hok : s.reliableFor (n + 1))
    (hn : s.pix.toNat + (n + 1) < Config.planeBytes) :
    core.run (n + 1) s = .next { s with
      answers := s.answers.drop (n + 1), answerCtr := s.answerCtr + (n + 1)
      trace := s.trace ++ (List.range (n + 1)).map (fun j => .data (s.planeByte p (s.pix.toNat + j)) .ok)
      lvlDc := .known .high, pix := s.pix + BitVec.ofNat 16 (n + 1) } := by
  simp only [Config.planeBytes] at hn
  induction n with
  | zero =>
    have e := dp_step s p ha hr hd hm hx (hok 0 (by omega))
    have h1 : (s.pix + 1#16).toNat ≠ Config.planeBytes := by
      rw [show (1#16) = BitVec.ofNat 16 1 from rfl, pix_add_toNat _ _ (by omega)]
      simp only [Config.planeBytes]; omega
    rw [State.nextByte_eq, if_neg h1] at e
    refine (core_run_step s 0 _ e).trans ?_
    simp [Host.Core.run]
  | succ n ih =>
    obtain ⟨u, hu⟩ : ∃ u : State, u = { s with
      answers := s.answers.drop (n + 1), answerCtr := s.answerCtr + (n + 1)
      trace := s.trace ++ (List.range (n + 1)).map (fun j => .data (s.planeByte p (s.pix.toNat + j)) .ok)
      lvlDc := .known .high, pix := s.pix + BitVec.ofNat 16 (n + 1) } := ⟨_, rfl⟩
    have hrun := ih (fun j hj => hok j (by omega)) (by omega)
    rw [← hu] at hrun
    have hpix : u.pix.toNat = s.pix.toNat + (n + 1) := by rw [hu]; exact pix_add_toNat _ _ (by omega)
    have e := dp_step u p (hu ▸ ha) (hu ▸ hr) (hu ▸ hd) (hu ▸ hm) (hu ▸ hx)
      (by rw [answerAt_drop s u (n + 1) 0 (by rw [hu]) (by rw [hu])]; exact hok _ (by omega))
    have h1 : (u.pix + 1#16).toNat ≠ Config.planeBytes := by
      rw [show (1#16) = BitVec.ofNat 16 1 from rfl, pix_add_toNat _ _ (by omega)]
      simp only [Config.planeBytes]; omega
    rw [State.nextByte_eq, if_neg h1] at e
    refine (core_run_add s (n + 1) 1 u hrun).trans ((core_run_step u 0 _ e).trans ?_)
    have hb : u.planeByte p u.pix.toNat = s.planeByte p (s.pix.toNat + (n + 1)) := by
      rw [hpix]; exact State.planeByte_congr s u (by rw [hu]) (by rw [hu]) p _
    have h2 : s.pix + BitVec.ofNat 16 (n + 1) + 1#16 = s.pix + BitVec.ofNat 16 (n + 1 + 1) := by
      rw [BitVec.add_assoc]; congr 1
      apply BitVec.eq_of_toNat_eq
      simp
    have h3 : (s.answers.drop (n + 1)).tail = s.answers.drop (n + 1 + 1) := by rw [List.tail_drop]
    rw [hb, hu, List.range_succ (n := n + 1), List.map_append]
    simp only [Host.Core.run, h2, h3, List.append_assoc, List.map_cons, List.map_nil, Nat.add_assoc]

/-- A whole plane transmission (R194): the bytes of the plane in ascending order. -/
theorem plane_run (p : Plane) (ha : s.alone) (hr : s.run = true) (hd : s.upc.seq = dispatch s.lOp)
    (hm : s.row = some (.dp p)) (hx : s.races = []) (hok : s.reliableFor Config.planeBytes) (h0 : s.pix = 0#16) :
    core.run Config.planeBytes s = .next { s with
      answers := s.answers.drop Config.planeBytes, answerCtr := s.answerCtr + Config.planeBytes
      trace := s.trace ++ (s.planeBytesOf p).map (fun b => .data b .ok)
      lvlDc := .known .high, pix := 0#16, upc := ⟨s.upc.seq, s.upc.k + 1⟩ } := by
  obtain ⟨m, hmm⟩ : ∃ m, m = 47998 := ⟨_, rfl⟩
  have hpb : Config.planeBytes = m + 1 + 1 := by rw [hmm]; rfl
  have hz : s.pix.toNat = 0 := by rw [h0]; rfl
  obtain ⟨u, hu⟩ : ∃ u : State, u = { s with
      answers := s.answers.drop (m + 1), answerCtr := s.answerCtr + (m + 1)
      trace := s.trace ++ (List.range (m + 1)).map (fun j => .data (s.planeByte p (s.pix.toNat + j)) .ok)
      lvlDc := .known .high, pix := s.pix + BitVec.ofNat 16 (m + 1) } := ⟨_, rfl⟩
  have hrun := dp_run s p m ha hr hd hm hx (fun j hj => hok j (by rw [hpb]; omega)) (by rw [hz, hpb]; omega)
  rw [← hu] at hrun
  have hpix : u.pix.toNat = m + 1 := by
    rw [hu]; exact (pix_add_toNat _ _ (by rw [hz, hmm]; omega)).trans (by rw [hz, Nat.zero_add])
  have e := dp_step u p (hu ▸ ha) (hu ▸ hr) (hu ▸ hd) (hu ▸ hm) (hu ▸ hx)
    (by rw [answerAt_drop s u (m + 1) 0 (by rw [hu]) (by rw [hu])]; exact hok _ (by rw [hpb]; omega))
  have h1 : (u.pix + 1#16).toNat = Config.planeBytes := by
    rw [show (1#16) = BitVec.ofNat 16 1 from rfl, pix_add_toNat _ _ (by rw [hpix, hmm]; omega), hpix, hpb]
  rw [State.nextByte_eq, if_pos h1] at e
  have hb : u.planeByte p u.pix.toNat = s.planeByte p (m + 1) := by
    rw [hpix]; exact State.planeByte_congr s u (by rw [hu]) (by rw [hu]) p _
  have h3 : (s.answers.drop (m + 1)).tail = s.answers.drop (m + 1 + 1) := by rw [List.tail_drop]
  have h4 : (s.planeBytesOf p).map (fun b => Event.data b .ok) =
      (List.range (m + 1)).map (fun j => Event.data (s.planeByte p j) .ok) ++ [.data (s.planeByte p (m + 1)) .ok] := by
    rw [State.planeBytesOf, hpb, List.range_succ (n := m + 1), List.map_append, List.map_append, List.map_map]
    rfl
  rw [h4, hpb]
  refine (core_run_add s (m + 1) 1 u hrun).trans ((core_run_step u 0 _ e).trans ?_)
  rw [hb, hu, hz]
  simp only [Host.Core.run, h3, List.append_assoc, Nat.zero_add, Nat.add_assoc]

/-- The position of a group after `n` groups of a frame. -/
theorem group_position (n : Nat) (h : n < 48000) :
    (BitVec.ofNat 16 (n / 100)).toNat = n / 100 ∧ (BitVec.ofNat 16 (n % 100)).toNat = n % 100 := by
  simp only [BitVec.toNat_ofNat]; omega

/-- The first `n` groups of an ENCODE, short of its last (R146, R147): their bytes are the frame function's, every other
byte stays, and the cursor is at the next group. -/
theorem group_run (n : Nat) (hn : n < 48000) (ha : s.alone) (hr : s.run = true) (hd : s.upc.seq = dispatch s.lOp)
    (hu : s.upc = ⟨.enc, 1⟩) (h1 : s.ebx = 0#16) (h2 : s.ey = 0#16) :
    ∃ t : State, core.run n s = .next t ∧
      (∀ p j, t.planeByte p j =
        if j < n then encodeFrame s.cfg.overlap s.pixel s.eLow s.eHigh p j else s.planeByte p j) ∧
      t = { s with
        pw := t.pw, pr := t.pr, ey := BitVec.ofNat 16 (n / 100), ebx := BitVec.ofNat 16 (n % 100) } := by
  induction n with
  | zero =>
    refine ⟨s, by simp [Host.Core.run], fun p j => by simp, ?_⟩
    cases s
    simp only at h1 h2
    subst h1 h2
    rfl
  | succ n ih =>
    obtain ⟨t, hrun, hby, ht⟩ := ih (by omega)
    obtain ⟨py, px⟩ := group_position n (by omega)
    have hrow : t.row = some (.egrp s.eLow s.eHigh) := by
      rw [ht]; simp [State.row, State.listing, hu, encListing, State.eLow, State.eHigh]
    have hx : t.ebx.toNat = n % 100 := by rw [ht]; exact px
    have hy : t.ey.toNat = n / 100 := by rw [ht]; exact py
    have hx' : t.ebx.toNat < Config.bytesPerRow := by rw [hx]; simp only [Config.bytesPerRow]; omega
    have hy' : t.ey.toNat < Config.height := by rw [hy]; simp only [Config.height]; omega
    have hci : t.cursorIndex = n := by rw [State.cursorIndex, hx, hy]; simp only [Config.bytesPerRow]; omega
    have hpx : t.pixel = s.pixel := by rw [ht]; rfl
    have hcf : t.cfg = s.cfg := by rw [ht]
    have e := step_alone_row t _ (ht ▸ ha) (ht ▸ hr) (ht ▸ hd) hrow
    refine ⟨t.egrp s.eLow s.eHigh, (core_run_add s n 1 t hrun).trans (core_run_step t 0 _ e), ?_, ?_⟩
    · intro p j
      rw [State.egrp_planeByte t _ _ hx' hy', hci, hpx, hcf, hby]
      by_cases hj : j = n
      · simp [hj]
      · by_cases hl : j < n
        · simp [hj, hl, Nat.lt_succ_of_lt hl]
        · have : ¬ j < n + 1 := by omega
          simp [hj, hl, this]
    · have hup : t.upc = s.upc := by rw [ht]
      refine (State.egrp_eq t s.eLow s.eHigh hx' hy').trans ?_
      have hlast : ¬ (t.ebx.toNat + 1 = Config.bytesPerRow ∧ t.ey.toNat + 1 = Config.height) := by
        rw [hx, hy]; simp only [Config.bytesPerRow, Config.height]; omega
      have hex : (if t.ebx.toNat + 1 = Config.bytesPerRow then 0#16 else t.ebx + 1#16) = BitVec.ofNat 16 ((n + 1) % 100) := by
        have hb : t.ebx.toNat + 1 = Config.bytesPerRow ↔ n % 100 + 1 = 100 := by rw [hx]; rfl
        by_cases hc : n % 100 + 1 = 100
        · rw [if_pos (hb.mpr hc), show (n + 1) % 100 = 0 by omega]
        · rw [if_neg (fun h => hc (hb.mp h))]
          apply BitVec.eq_of_toNat_eq
          rw [BitVec.toNat_add, hx]; simp only [BitVec.toNat_ofNat]; omega
      have hey : (if t.ebx.toNat + 1 = Config.bytesPerRow then t.ey + 1#16 else t.ey) = BitVec.ofNat 16 ((n + 1) / 100) := by
        have hb : t.ebx.toNat + 1 = Config.bytesPerRow ↔ n % 100 + 1 = 100 := by rw [hx]; rfl
        by_cases hc : n % 100 + 1 = 100
        · rw [if_pos (hb.mpr hc)]
          apply BitVec.eq_of_toNat_eq
          rw [BitVec.toNat_add, hy]; simp only [BitVec.toNat_ofNat]; omega
        · rw [if_neg (fun h => hc (hb.mp h))]
          apply BitVec.eq_of_toNat_eq
          rw [hy]; simp only [BitVec.toNat_ofNat]; omega
      rw [hex, hey, if_neg hlast, hup]
      generalize (t.egrp s.eLow s.eHigh).pw = a, (t.egrp s.eLow s.eHigh).pr = b
      rw [ht]

end Sys2Proof.Machine
end

