-- ==== Sys2Proof/Machine/HostSyntax.lean ====
section
/-! DEFINITION. The text of a host program (30_encoding.md R114, R116, R118): one line, case-insensitive mnemonics, `;`
starting a comment, decimal or `0x` hexadecimal numbers. What R114 leaves open of the text, the case of a number's letters
among it, is the model's choice (log 30). -/

namespace Sys2Proof.Machine

/-- The upper-case form of a letter; other characters stay. -/
def upperChar (c : Char) : Char :=
  if 97 ≤ c.toNat ∧ c.toNat ≤ 122 then Char.ofNat (c.toNat - 32) else c

/-- A blank inside a line: a space, a tab or a carriage return (DESIGN CHOICE, log 30). -/
def isBlank (c : Char) : Bool := c = ' ' || c = '\t' || c = '\r'

/-- A word being read, kept reversed, joined to the words after it. -/
def closeWord (acc : List Char) (rest : List (List Char)) : List (List Char) :=
  if acc.isEmpty then rest else acc.reverse :: rest

/-- The words of a line in upper case, a comma being a word of its own, up to a comment. R114 makes the mnemonics
case-insensitive; that numbers are upper-cased with them is a DESIGN CHOICE (log 30). -/
def words : List Char → List Char → List (List Char)
  | [], acc => closeWord acc []
  | c :: rest, acc =>
    if c = ';' then closeWord acc []
    else if isBlank c then closeWord acc (words rest [])
    else if c = ',' then closeWord acc ([','] :: words rest [])
    else words rest (upperChar c :: acc)

/-- The value of a digit in upper case. -/
def digitValue (c : Char) : Option Nat :=
  if 48 ≤ c.toNat ∧ c.toNat ≤ 57 then some (c.toNat - 48)
  else if 65 ≤ c.toNat ∧ c.toNat ≤ 70 then some (c.toNat - 55)
  else none

/-- Digits of a base, most significant first. -/
def digits (base : Nat) : List Char → Nat → Option Nat
  | [], n => some n
  | c :: rest, n =>
    match digitValue c with
    | some d => if d < base then digits base rest (n * base + d) else none
    | none => none

/-- A number of an upper-cased line: decimal, or hexadecimal after `0X`. R114 writes the prefix `0x`; that the line may have
`0X` too, and hexadecimal digits in either case, is a DESIGN CHOICE (log 30). -/
def number : List Char → Option Nat
  | [] => none
  | ['0', 'X'] => none
  | '0' :: 'X' :: rest => digits 16 rest 0
  | w => digits 10 w 0

/-- Two numbers with a comma between them. -/
def twoNumbers : List (List Char) → Option (Nat × Nat)
  | [a, [','], b] => (number a).bind fun x => (number b).map fun y => (x, y)
  | _ => none

/-- A host program line, from its words: the operands omitted from RENDER are PLANE_BYTES (R114). -/
def lineOfWords : List (List Char) → Option HostLine
  | ['E', 'N', 'C', 'O', 'D', 'E'] :: rest => (twoNumbers rest).map fun p => .encode p.1 p.2
  | [['I', 'N', 'I', 'T']] => some .init
  | [['R', 'E', 'N', 'D', 'E', 'R']] => some (.render Config.planeBytes Config.planeBytes)
  | ['R', 'E', 'N', 'D', 'E', 'R'] :: rest => (twoNumbers rest).map fun p => .render p.1 p.2
  | [['S', 'L', 'E', 'E', 'P']] => some .sleep
  | ['O', 'P'] :: op :: [','] :: rest =>
    (number op).bind fun v => (twoNumbers rest).map fun p => .raw v p.1 p.2
  | ['D', 'I', 'S', 'P', 'L', 'A', 'Y'] :: rest => (twoNumbers rest).map fun p => .display p.1 p.2
  | _ => none

/-- One line of text: no operation (a blank or comment line), one well-formed operation, or `none` for a line that is
neither. -/
def parseLine (text : List Char) : Option (List HostLine) :=
  match words text [] with
  | [] => some []
  | ws => (lineOfWords ws).bind fun l => if l.wf then some [l] else none

/-- A program, from its lines. -/
def parseProgram : List (List Char) → Option (List HostLine)
  | [] => some []
  | t :: rest => (parseLine t).bind fun ls => (parseProgram rest).map fun more => ls ++ more

end Sys2Proof.Machine
end

