-- ==== Sys2Proof/Tests/Slice0.lean ====
section
/-! SUPPORT. The smoke tests of WellFormed, decodings of words written out from the spec, one-step tests whose expected
results are spec/95_test_vectors.md's, and for each obligation with hypotheses a state that meets them. -/

namespace Sys2Proof.Tests

open Sys2Proof
open Sys2Proof.Machine

/-! ## WellFormed refuses each ill-formed term (R10, R114, R116) -/

theorem test_wf_size_width_zero : Config.sizeWf 0 480 = false := by decide
theorem test_wf_size_height_zero : Config.sizeWf 800 0 = false := by decide
theorem test_wf_size_width_not_by_8 : Config.sizeWf 804 480 = false := by decide
theorem test_wf_size_of_this_hardware : Config.sizeWf 800 480 = true := by decide
theorem test_wf_standard : Config.standard.wf = true := by decide
theorem test_wf_reset_hold_too_short : Config.wf { Config.standard with tRstMs := 199 } = false := by decide

/-- Each pair of equal line identifiers is refused. -/
theorem test_wf_lines_equal :
    ([{ Config.standard with lineCs := ⟨0⟩ }, { Config.standard with lineDc := ⟨0⟩ },
      { Config.standard with lineBusy := ⟨0⟩ }, { Config.standard with lineDc := ⟨1⟩ },
      { Config.standard with lineBusy := ⟨1⟩ }, { Config.standard with lineBusy := ⟨2⟩ }] : List Config).all
      (fun c => !c.wf) = true := by decide

theorem test_wf_encode_low : HostLine.wf (.encode 256 0) = false := by decide
theorem test_wf_encode_high : HostLine.wf (.encode 0 256) = false := by decide
theorem test_wf_render_lw : HostLine.wf (.render 4294967296 0) = false := by decide
theorem test_wf_render_lr : HostLine.wf (.render 0 4294967296) = false := by decide
theorem test_wf_raw_op : HostLine.wf (.raw 256 0 0) = false := by decide
theorem test_wf_raw_arg0 : HostLine.wf (.raw 0 4294967296 0) = false := by decide
theorem test_wf_raw_arg1 : HostLine.wf (.raw 0 0 4294967296) = false := by decide
theorem test_wf_display_low : HostLine.wf (.display 256 0) = false := by decide
theorem test_wf_display_high : HostLine.wf (.display 0 256) = false := by decide

/-! ## Words written out from the spec's encodings decode to their rows -/

/-- R101, R103, R104, R105: vectors O1, O2, O4, and the lengths of RENDER. -/
theorem test_decode_host_ops :
    decode (.hostOp 0b00000001#8 0x0000C040#32 0#32) = .ok (.encode 64#8 192#8) ∧
    decode (.hostOp 0b00000001#8 0xFFFFC040#32 0x12345678#32) = .ok (.encode 64#8 192#8) ∧
    decode (.hostOp 0b00000001#8 0x000064C8#32 0#32) = .ok (.encode 200#8 100#8) ∧
    decode (.hostOp 0b00000010#8 0#32 0#32) = .ok .init ∧
    decode (.hostOp 0b00000011#8 0x0000BB7F#32 0x0001BB80#32) = .ok (.render 47999#32 113536#32) ∧
    decode (.hostOp 0b00000100#8 0#32 0#32) = .ok .sleep := by decide

/-- R102: the values beside the op map are reserved. -/
theorem test_decode_reserved :
    ([0x00#8, 0x05#8, 0x07#8, 0x81#8, 0xFF#8] : List Byte).all
      (fun op => decode (.hostOp op 0#32 0#32) = .error (.reservedOperation op)) = true := by decide

/-- R220 to R225. -/
theorem test_decode_wire_00_10 :
    decode (.wireCmd 0b00000000#8) = .ok .panelSetting ∧ decode (.wireCmd 0b00000001#8) = .ok .powerSetting ∧
    decode (.wireCmd 0b00000010#8) = .ok .powerOff ∧ decode (.wireCmd 0b00000100#8) = .ok .powerOn ∧
    decode (.wireCmd 0b00000111#8) = .ok .deepSleep ∧
    decode (.wireCmd 0b00010000#8) = .ok .dataStartTransmission1 := by decide

/-- R226 to R229. -/
theorem test_decode_wire_11_15 :
    decode (.wireCmd 0b00010001#8) = .ok .dataStop ∧ decode (.wireCmd 0b00010010#8) = .ok .displayRefresh ∧
    decode (.wireCmd 0b00010011#8) = .ok .dataStartTransmission2 ∧
    decode (.wireCmd 0b00010101#8) = .ok .cmd15 := by decide

/-- R230 to R239. -/
theorem test_decode_wire_luts :
    decode (.wireCmd 0b00100000#8) = .ok .lutForVcom ∧ decode (.wireCmd 0b00100001#8) = .ok .lutBlue ∧
    decode (.wireCmd 0b00100010#8) = .ok .lutWhite ∧ decode (.wireCmd 0b00100011#8) = .ok .lutGray1 ∧
    decode (.wireCmd 0b00100100#8) = .ok .lutGray2 ∧ decode (.wireCmd 0b00100101#8) = .ok .lutRed0 ∧
    decode (.wireCmd 0b00100110#8) = .ok .lutRed1 ∧ decode (.wireCmd 0b00100111#8) = .ok .lutRed2 ∧
    decode (.wireCmd 0b00101000#8) = .ok .lutRed3 ∧ decode (.wireCmd 0b00101001#8) = .ok .lutXon := by decide

/-- R240 to R248. -/
theorem test_decode_wire_30_82 :
    decode (.wireCmd 0b00110000#8) = .ok .pllControl ∧
    decode (.wireCmd 0b01010000#8) = .ok .vcomAndDataIntervalSetting ∧
    decode (.wireCmd 0b01100000#8) = .ok .tconSetting ∧ decode (.wireCmd 0b01100001#8) = .ok .tconResolution ∧
    decode (.wireCmd 0b01110000#8) = .ok .revision ∧ decode (.wireCmd 0b01110001#8) = .ok .getStatus ∧
    decode (.wireCmd 0b10000000#8) = .ok .autoMeasurementVcom ∧ decode (.wireCmd 0b10000001#8) = .ok .readVcomValue ∧
    decode (.wireCmd 0b10000010#8) = .ok .vcmDcSetting := by decide

/-- R111: neighbours of defined values are undefined. -/
theorem test_decode_undefined :
    ([0x03#8, 0x05#8, 0x14#8, 0x16#8, 0x2A#8, 0x62#8, 0x72#8, 0x83#8, 0xFF#8] : List Byte).all
      (fun b => decode (.wireCmd b) = .error (.undefinedCommand b)) = true := by decide

/-- One byte of the table's numbering (log 13): a host operation wins where both formats have the value. -/
theorem test_table_words :
    decodeTableWord 8 0x01 = some (.encode 0#8 0#8) ∧ decodeTableWord 8 0x12 = some .displayRefresh ∧
    decodeTableWord 8 0x03 = some (.render 0#32 0#32) ∧ decodeTableWord 8 0x03FF = none ∧
    decodeTableWord 72 0xC04001 = some (.encode 0x40#8 0xC0#8) := by decide

/-! ## The encoder's vectors (95_test_vectors.md sections 2 and 3) -/

theorem test_c1 : ([(0, .black), (63, .black), (64, .red), (191, .red), (192, .white), (255, .white)] :
    List (Nat × PixelClass)).all (fun p => classify .black (BitVec.ofNat 8 p.1) 64#8 192#8 = p.2) = true := by decide

theorem test_c8 : ([(99, .black), (100, .white), (199, .white), (200, .white)] :
    List (Nat × PixelClass)).all (fun p => classify .white (BitVec.ofNat 8 p.1) 200#8 100#8 = p.2) = true := by decide

theorem test_k_positions : ([((7, 0), 0, 0x01#8), ((8, 0), 1, 0x80#8), ((0, 1), 100, 0x80#8), ((399, 239), 23949, 0x01#8),
    ((799, 479), 47999, 0x01#8)] : List ((Nat × Nat) × Nat × Byte)).all
    (fun k => pixelIndex k.1.1 k.1.2 = k.2.1 && pixelMask k.1.1 = k.2.2) = true := by decide

/-- The byte pair of a group of intensities. -/
def pack (overlap : OverlapClass) (low high : Byte) (is : List Byte) : Byte × Byte :=
  packGroup fun o => classify overlap (is.getD o 0x00#8) low high

theorem test_e7 : pack .black 64#8 192#8 [10#8, 100#8, 255#8, 200#8, 0#8, 192#8, 64#8, 191#8] = (0x77#8, 0x43#8) := by decide
theorem test_e11 : pack .black 200#8 100#8 [50#8, 150#8, 250#8, 99#8, 100#8, 199#8, 200#8, 255#8] = (0x23#8, 0x00#8) := by
  decide
theorem test_e12 : pack .white 200#8 100#8 [50#8, 150#8, 250#8, 99#8, 100#8, 199#8, 200#8, 255#8] = (0x6F#8, 0x00#8) := by
  decide

/-! ## States -/

/-- The block at a row of an operation, the Transport answering as listed. -/
def runningAt (op : Byte) (seq : Seq) (k : Nat) (answers : List Answer) : State :=
  { State.reset with lOp := op, run := true, upc := ⟨seq, k⟩, answers := answers }

def initAt (k : Nat) : State := runningAt 0x02#8 .init k [.ok]
def renderAt (k : Nat) : State := runningAt 0x03#8 .render k [.ok]
def sleepAt (k : Nat) : State := runningAt 0x04#8 .sleep k [.ok]
def encAt (k : Nat) : State := runningAt 0x01#8 .enc k []

/-- An image of one intensity, 800 x 480. -/
def flatImage (v : Byte) : Image := { width := 800#16, height := 480#16, pixels := [], background := v }

/-- A host request in the reset state. -/
def asked (r : HostReq) : State := { State.reset with inputs := [r] }

/-- The state of an outcome that goes on. -/
def after (o : Host.Outcome State Fault Refusal) : Option State :=
  match o with
  | .next t => some t
  | .fault _ => none
  | .refused _ => none

/-- What a step appends to an empty trace, in R119's notation. -/
def traceText (o : Host.Outcome State Fault Refusal) : Option (List String) :=
  (after o).map fun t => t.trace.map (Event.text t.cfg)

/-! ## One step of each operation's rows (V1, V3, V6, V7, W, A, P vectors) -/

theorem test_init_first_row : traceText (step (initAt 0)) = some ["PHASE Resetting"] := by decide
theorem test_init_reset_line : traceText (step (initAt 1)) = some ["LINE RST 0"] := by decide
theorem test_init_delay : traceText (step (initAt 2)) = some ["DELAY 200"] := by decide
theorem test_power_setting_third_byte : traceText (step (initAt 9)) = some ["DATA 0x3F"] := by decide
theorem test_power_on : traceText (step (initAt 11)) = some ["CMD 0x04"] := by decide
theorem test_get_status : traceText (step (initAt 12)) = some ["CMD 0x71"] := by decide
theorem test_panel_setting_byte : traceText (step (initAt 14)) = some ["DATA 0x0F"] := by decide
theorem test_cmd15_byte : traceText (step (initAt 16)) = some ["DATA 0x00"] := by decide
theorem test_vcom_second_byte : traceText (step (initAt 19)) = some ["DATA 0x07"] := by decide
theorem test_tcon_byte : traceText (step (initAt 21)) = some ["DATA 0x22"] := by decide
theorem test_init_completes : (after (step (initAt 23))).map (fun t => (t.run, t.resValid, t.result.code, t.upc)) =
    some (false, true, 0x00#32, ⟨.none, 0⟩) := by decide
theorem test_render_refresh : traceText (step (renderAt 7)) = some ["CMD 0x12"] := by decide
theorem test_render_delay : traceText (step (renderAt 8)) = some ["DELAY 100"] := by decide
theorem test_power_off : traceText (step (sleepAt 1)) = some ["CMD 0x02"] := by decide
theorem test_deep_sleep_byte : traceText (step (sleepAt 4)) = some ["DATA 0xA5"] := by decide
theorem test_sleep_phase : (after (step (sleepAt 5))).map (fun t => t.phase.code) = some 6#32 := by decide

/-- V6: the first byte of a transmission is PW[0], and PIX steps. -/
theorem test_plane_byte : (after (step { renderAt 3 with pw := [(0, 0x7F#8)] })).map
    (fun t => (t.trace, t.pix, t.upc.k)) = some ([.data 0x7F#8 .ok], 1#16, 3) := by decide

/-- V6: the last byte of a transmission ends it. -/
theorem test_last_plane_byte : (after (step { renderAt 5 with pix := 47999#16, pr := [(47999, 0xFE#8)] })).map
    (fun t => (t.trace, t.pix, t.upc.k)) = some ([.data 0xFE#8 .ok], 0#16, 6) := by decide

/-- W2: a busy sample loops to the next poll. W1: a sample that is not busy exits. -/
theorem test_busy_sample : (after (step { initAt 12 with wst := .sample, samples := [.low] })).map
    (fun t => (t.bsample, t.wst, t.upc.k)) = some (.known .low, .cmd, 12) := by decide
theorem test_idle_sample : (after (step { initAt 12 with wst := .sample, samples := [.high] })).map
    (fun t => (t.bsample, t.wst, t.upc.k)) = some (.known .high, .cmd, 13) := by decide

/-- W3: with POLL_DELAY_MS = 5 the delay follows a busy sample. -/
theorem test_poll_delay : (after (step { sleepAt 2 with
    wst := .delay, cfg := { Config.standard with pollDelayMs := 5 } })).map (fun t => (t.trace, t.wst)) =
    some ([.delay 5], .cmd) := by decide

/-- A1: INIT's abort at k = 8. -/
theorem test_init_abort : (after (step { runningAt 0x02#8 .init 8 [.fail ⟨1⟩] with phase := .initializing })).map
    (fun t => (t.trace, t.phase.code, t.result.code, t.resErr, t.lvlDc)) =
    some ([.data 0x07#8 (.fail ⟨1⟩), .phase .resetting], 1#32, 0x04#32, some ⟨1⟩, .unknown) := by decide

/-- A10: SLEEP's abort leaves the phase. -/
theorem test_sleep_abort : (after (step { runningAt 0x04#8 .sleep 1 [.fail ⟨1⟩] with phase := .idle })).map
    (fun t => (t.trace, t.phase.code, t.result.code)) =
    some ([.cmd 0x02#8 (.fail ⟨1⟩)], 3#32, 0x04#32) := by decide

/-- P2, P5: RENDER's checks. -/
theorem test_render_phase_check : (after (step (renderAt 0))).map (fun t => t.result.code) = some 0x03#32 := by decide
theorem test_render_length_check : (after (step { renderAt 0 with
    phase := .idle, lArg0 := 0x0001BB80#32, lArg1 := 0xBB80#32 })).map (fun t => t.result.code) = some 0x02#32 := by decide

/-- P7: SLEEP's check. -/
theorem test_sleep_phase_check : (after (step { sleepAt 0 with phase := .sleeping })).map (fun t => t.result.code) =
    some 0x03#32 := by decide

/-- D1: ENCODE's check. V3: the group of pixel (0, 0). -/
theorem test_encode_size_check : (after (step { encAt 0 with img := { flatImage 0#8 with width := 480#16, height := 800#16 } })).map
    (fun t => (t.result.code, t.pw)) = some (0x01#32, []) := by decide
theorem test_encode_group : (after (step { encAt 1 with
    lArg0 := 0x0000C040#32, img := { flatImage 255#8 with pixels := [(0, 10#8)] } })).map
    (fun t => (t.pw, t.pr, t.ebx, t.ey)) = some ([(0, 0x7F#8)], [(0, 0x00#8)], 1#16, 0#16) := by decide

/-- P12: a reserved operation. -/
theorem test_reserved : (after (step (runningAt 0xFF#8 .rsv 0 []))).map (fun t => t.result.code) = some 0x05#32 := by decide

/-- H1: the registers after reset. H2: START. H6: OP while an INIT runs. H10: truncation. -/
theorem test_h1 : [0, 1, 2, 3, 4, 5, 6, 7].map State.reset.regValue =
    [.word 0#32, .word 0#32, .word 0#32, .word 0#32, .word 0#32, .word 0#32, .payload none, .word 0#32] := by decide
theorem test_h2 : (after (step { asked (.regWrite 3 1) with op := 0x02#8 })).map (fun t => (t.regValue 4, t.upc)) =
    some (.word 0x01#32, ⟨.init, 0⟩) := by decide
theorem test_h6 : (after (step { initAt 7 with inputs := [.regWrite 0 3] })).map (fun t => (t.regValue 0, t.upc.k, t.lOp)) =
    some (.word 0x03#32, 7, 0x02#8) := by decide
theorem test_h10 : (after (step (asked (.regWrite 1 0x100000001)))).map (fun t => t.regValue 1) = some (.word 1#32) := by
  decide

/-! ## Text (R114, R117, R118, R119) -/

theorem test_parse_display : parseLine "display 64, 0xC0 ; both".toList = some [.display 64 192] := by decide
theorem test_parse_render : parseLine "RENDER".toList = some [.render 48000 48000] := by decide
theorem test_parse_range : parseLine "ENCODE 64, 256".toList = none := by decide
theorem test_exchange_text : exchangeText (0x50#8, [0x11#8, 0x07#8]) = some "VCOM_AND_DATA_INTERVAL_SETTING 11 07" := by
  decide

/-- R115, R116: the raw spelling writes its three numbers, whatever they are (log 28). -/
theorem test_expand_raw : expandLine (.raw 0x05 0xFFFFFFFF 1) =
    [.regWrite 0 5, .regWrite 1 4294967295, .regWrite 2 1, .regWrite 3 1, .awaitIdle] := by decide

/-- R82: a byte's bits, bit 7 first. -/
theorem test_bits : (byteFrame Config.standard .high 0xA5#8).bits = [.high, .low, .high, .low, .low, .high, .low, .high] := by
  decide

/-! ## The placing of an instruction (log 14) -/

/-- From reset the next step of a placed word is its instruction's. -/
theorem test_placed_deep_sleep : traceText (step ({ State.reset with answers := [.ok] }.withFetchWord 8 0x07)) =
    some ["CMD 0x07"] := by decide
theorem test_placed_unlisted : traceText (step ({ State.reset with answers := [.ok] }.withFetchWord 8 0x82)) =
    some ["CMD 0x82"] := by decide
theorem test_placed_init : traceText (step (State.reset.withFetchWord 8 0x02)) = some ["PHASE Resetting"] := by decide

/-! ## For each obligation with hypotheses, states that meet them -/

theorem witness_DecodeInvertsEncode :
    decode (.hostOp 0x03#8 0xBB80#32 0xBB80#32) = .ok (.render 48000#32 48000#32) ∧
    decode (.wireCmd 0x71#8) = .ok .getStatus := by decide

theorem witness_HostWordsDecodeByTheOpMap :
    (0x00#8 = 0x00#8 ∨ 5 ≤ (0x00#8).toNat) ∧ (0x05#8 = 0x00#8 ∨ 5 ≤ (0x05#8).toNat) ∧
    (0xFF#8 = 0x00#8 ∨ 5 ≤ (0xFF#8).toNat) := by decide

/-- The three ways it is the block's turn, and the bench port. -/
theorem witness_StepRunsDecodedInstruction :
    ((initAt 6).blockTurn (initAt 6) ∧ (initAt 6).run = true ∧ decode (initAt 6).fetch = .ok .powerSetting) ∧
    State.blockTurn { renderAt 9 with inputs := [.block, .regRead 4] } { renderAt 9 with inputs := [.regRead 4] } ∧
    State.blockTurn { sleepAt 0 with inputs := [.awaitIdle] } { sleepAt 0 with inputs := [.awaitIdle] } ∧
    (State.reset.cfg.wf = true ∧ (State.reset.withFetchWord 8 0x20).bench = some 0x20#8 ∧
      decode (.wireCmd 0x20#8) = .ok .lutForVcom) :=
  ⟨⟨⟨by decide, rfl, .inl ⟨rfl, rfl⟩⟩, rfl, by decide⟩, ⟨by decide, rfl, .inr (.inl ⟨_, rfl, rfl⟩)⟩,
    ⟨by decide, rfl, .inr (.inr ⟨_, rfl, rfl, rfl⟩)⟩, by decide⟩

theorem witness_IdleBlockDoesNothing :
    State.reset.blockTurn State.reset ∧ State.reset.run = false ∧
    (asked .block).blockTurn State.reset ∧ (asked .block).run = false :=
  ⟨⟨by decide, rfl, .inl ⟨rfl, rfl⟩⟩, rfl, ⟨by decide, rfl, .inr (.inl ⟨_, rfl, rfl⟩)⟩, rfl⟩

/-- Every row's hypotheses are met. -/
theorem witness_FetchFollowsTheListings :
    (∀ k < 24, (initAt k).lOp = 0x02#8 ∧ (initAt k).upc = ⟨.init, k⟩) ∧
    (∀ k < 12, (renderAt k).lOp = 0x03#8 ∧ (renderAt k).upc = ⟨.render, k⟩) ∧
    (∀ k < 7, (sleepAt k).lOp = 0x04#8 ∧ (sleepAt k).upc = ⟨.sleep, k⟩) ∧
    (∀ k < 3, (encAt k).lOp = 0x01#8 ∧ (encAt k).upc = ⟨.enc, k⟩) ∧
    ((initAt 12).wst = .cmd ∧ State.wst { renderAt 9 with wst := .sample } ≠ .cmd ∧
      State.wst { sleepAt 2 with wst := .delay } ≠ .cmd) := by decide

theorem asked_hostTurn (r : HostReq) : (asked r).hostTurn r [] := ⟨test_wf_standard, rfl, rfl⟩

theorem witness_StartRule :
    ((asked (.regWrite 3 1)).hostTurn (.regWrite 3 1) [] ∧ 1 % 2 = 1 ∧ (asked (.regWrite 3 1)).run = false) ∧
    ((asked (.regWrite 3 0xFF)).hostTurn (.regWrite 3 0xFF) [] ∧ 0xFF % 2 = 1) ∧
    ((asked (.regWrite 3 0)).hostTurn (.regWrite 3 0) [] ∧ 0 % 2 = 0) ∧
    (State.hostTurn { initAt 6 with inputs := [.regWrite 3 1] } (.regWrite 3 1) [] ∧ (initAt 6).run = true) ∧
    (asked (.regRead 3)).hostTurn (.regRead 3) [] :=
  ⟨⟨asked_hostTurn _, rfl, rfl⟩, ⟨asked_hostTurn _, rfl⟩, ⟨asked_hostTurn _, rfl⟩, ⟨⟨by decide, rfl, rfl⟩, rfl⟩,
    asked_hostTurn _⟩

/-- The reserved op codes 0x00, 0x05 and 0xFF. -/
theorem witness_ReservedOperationCompletes (op : Byte) (h : op = 0x00#8 ∨ op = 0x05#8 ∨ op = 0xFF#8) :
    (runningAt op .rsv 0 []).blockTurn (runningAt op .rsv 0 []) ∧ (runningAt op .rsv 0 []).run = true ∧
    (runningAt op .rsv 0 []).upc = ⟨.rsv, 0⟩ ∧
    ((runningAt op .rsv 0 []).lOp = 0x00#8 ∨ 5 ≤ (runningAt op .rsv 0 []).lOp.toNat) := by
  refine ⟨⟨test_wf_standard, rfl, .inl ⟨rfl, rfl⟩⟩, rfl, rfl, ?_⟩
  rcases h with rfl | rfl | rfl <;> decide

/-- The positions that FinishRowsComplete, PhaseRowsWriteThePhase, DelayRowsEmitTheirDelay, CommandRowsSendTheirCommand and
DataRowsSendTheirByte name, with a call that answers ok. -/
theorem witness_ListingRows :
    (∀ k < 24, (initAt k).upc = ⟨.init, k⟩ ∧ (initAt k).nextAnswer = .ok) ∧
    (∀ k < 12, (renderAt k).upc = ⟨.render, k⟩ ∧ (renderAt k).nextAnswer = .ok) ∧
    (∀ k < 7, (sleepAt k).upc = ⟨.sleep, k⟩ ∧ (sleepAt k).nextAnswer = .ok) ∧ (encAt 2).upc = ⟨.enc, 2⟩ := by decide

theorem witness_ResetPulseDrivesRst :
    ((initAt 1).upc = ⟨.init, 1⟩ ∧ (initAt 1).nextAnswer = .ok) ∧
    ((initAt 3).upc = ⟨.init, 3⟩ ∧ (initAt 3).nextAnswer = .ok) ∧
    ((runningAt 0x02#8 .init 1 [.fail ⟨1⟩]).upc = ⟨.init, 1⟩ ∧
      (runningAt 0x02#8 .init 1 [.fail ⟨1⟩]).nextAnswer = .fail ⟨1⟩) := by decide

/-- The first and the last plane byte, without and with a race. -/
theorem witness_PlaneRowsSendTheirByte :
    ((renderAt 3).upc = ⟨.render, 3⟩ ∧ (renderAt 3).pix.toNat < 48000 ∧ (renderAt 3).nextAnswer = .ok) ∧
    ((renderAt 5).upc = ⟨.render, 5⟩ ∧ State.pix { renderAt 5 with pix := 47999#16 } = 47999#16 ∧
      (47999#16).toNat < 48000) ∧
    (∃ q ∈ State.races { renderAt 5 with races := [⟨.pr, 0, 0xAA#8, 0⟩] },
      q.plane = .pr ∧ q.index = (renderAt 5).pix.toNat) := by decide

theorem witness_UnlistedCommandsSendTheirByte : (initAt 6).nextAnswer = .ok := by decide

theorem witness_GetStatusPrecedesTheSample :
    ((initAt 12).upc = ⟨.init, 12⟩ ∧ (initAt 12).wst = .cmd ∧ (initAt 12).nextAnswer = .ok) ∧
    ((renderAt 9).upc = ⟨.render, 9⟩ ∧ (renderAt 9).wst = .cmd ∧ (renderAt 9).nextAnswer = .ok) ∧
    ((sleepAt 2).upc = ⟨.sleep, 2⟩ ∧ (sleepAt 2).wst = .cmd ∧ (sleepAt 2).nextAnswer = .ok) := by decide

/-- A busy sample, one that exits, a failed one, a poll delay. -/
theorem witness_BusyWaitSamples :
    (State.nextAnswer { initAt 12 with wst := .sample, samples := [.low] } = .ok ∧
      State.nextSample { initAt 12 with wst := .sample, samples := [.low] } = Config.standard.busyActive) ∧
    (State.nextAnswer { renderAt 9 with wst := .sample, samples := [.high] } = .ok ∧
      State.nextSample { renderAt 9 with wst := .sample, samples := [.high] } ≠ Config.standard.busyActive) ∧
    (State.nextAnswer { runningAt 0x04#8 .sleep 2 [.fail ⟨1⟩] with wst := .sample } = .fail ⟨1⟩) ∧
    (State.wst { sleepAt 2 with wst := .delay } = .delay) := by decide

/-- A DT row of the command's own exchange (A1), a DP row of it (A5) at the first and the last byte, and the rows at which the
command byte goes out: a CM row, a busy-wait, a DT row of another exchange. -/
theorem witness_FailedTransferAborts :
    ([(.powerSetting, runningAt 0x02#8 .init 8 [.fail ⟨1⟩]), (.deepSleep, runningAt 0x04#8 .sleep 4 [.fail ⟨1⟩]),
      (.dataStartTransmission1, runningAt 0x03#8 .render 3 [.fail ⟨1⟩]),
      (.dataStartTransmission2, { runningAt 0x03#8 .render 5 [.fail ⟨1⟩] with pix := 47999#16 }),
      (.powerOn, runningAt 0x02#8 .init 11 [.fail ⟨1⟩]), (.getStatus, runningAt 0x02#8 .init 12 [.fail ⟨1⟩]),
      (.revision, runningAt 0x02#8 .init 8 [.fail ⟨1⟩])] : List (Instr × State)).all (fun r =>
        decide (r.1.format = .wireCmd ∧ r.2.nextAnswer = .fail ⟨1⟩)) = true ∧
    ((initAt 8).row = some (.dt 0x07#8) ∧ (initAt 8).exchange = some (Instr.opcode .powerSetting)) ∧
    ((sleepAt 4).row = some (.dt 0xA5#8) ∧ (sleepAt 4).exchange = some (Instr.opcode .deepSleep)) ∧
    ((renderAt 3).row = some (.dp .pw) ∧ (renderAt 3).exchange = some (Instr.opcode .dataStartTransmission1)) ∧
    ((renderAt 5).row = some (.dp .pr) ∧ (renderAt 5).exchange = some (Instr.opcode .dataStartTransmission2)) ∧
    (initAt 11).row = some (.cm 0x04#8) ∧ (initAt 12).row = some .wi ∧
    (initAt 8).exchange ≠ some (Instr.opcode .revision) := by decide

/-- The three outcomes of RCHK, the lengths at their boundaries (P3, P4, P5). -/
theorem witness_RenderChecksPhaseThenLengths :
    ((renderAt 0).upc = ⟨.render, 0⟩ ∧ (renderAt 0).phase ≠ .idle) ∧
    (State.phase { renderAt 0 with phase := .idle } = .idle ∧ (0xBB7F#32).toNat ≠ 48000 ∧ (0x0001BB80#32).toNat ≠ 48000 ∧
      (0xBB80#32).toNat = 48000) := by decide

theorem witness_SleepChecksPhase :
    ((sleepAt 0).upc = ⟨.sleep, 0⟩ ∧ (sleepAt 0).phase ≠ .idle) ∧
    (State.upc { sleepAt 0 with phase := .idle } = ⟨.sleep, 0⟩ ∧ State.phase { sleepAt 0 with phase := .idle } = .idle) := by
  decide

/-- No image, and an image of the panel's size. -/
theorem witness_EncodeChecksImageSize :
    ((encAt 0).upc = ⟨.enc, 0⟩ ∧ (encAt 0).img.width.toNat ≠ 800) ∧
    ((flatImage 0#8).width.toNat = 800 ∧ (flatImage 0#8).height.toNat = 480) := by decide

/-- The four cases at their boundaries (C1, C7). -/
theorem witness_ClassifyByThresholds :
    ((63#8).toNat < (64#8).toNat ∧ (63#8).toNat < (192#8).toNat) ∧
    ((64#8).toNat ≤ (192#8).toNat ∧ (192#8).toNat ≤ (192#8).toNat) ∧
    ((64#8).toNat ≤ (64#8).toNat ∧ (191#8).toNat < (192#8).toNat) ∧
    ((100#8).toNat ≤ (100#8).toNat ∧ (199#8).toNat < (200#8).toNat) := by decide

/-- The first group, the last of a row and the last of the frame. -/
theorem witness_EncodeGroupWritesBothPlanes :
    ((encAt 1).upc = ⟨.enc, 1⟩ ∧ (encAt 1).ey.toNat < 480 ∧ (encAt 1).ebx.toNat < 100) ∧
    (State.upc { encAt 1 with ey := 479#16, ebx := 99#16 } = ⟨.enc, 1⟩ ∧ (479#16).toNat < 480 ∧ (99#16).toNat < 100) := by
  decide

/-- A memory that lists one value at every index below n. -/
theorem lookup_filled (v : Byte) (n i : Nat) (h : i < n) : Memory.lookup ((List.range n).map fun j => (j, v)) i = some v := by
  have key : ∀ l : List Nat, i ∈ l → Memory.lookup (l.map fun j => (j, v)) i = some v := by
    intro l
    induction l with
    | nil => simp
    | cons j rest ih =>
      intro hm
      by_cases hj : i = j
      · simp [Memory.lookup, hj]
      · simp only [List.map_cons, Memory.lookup, hj, if_false]
        exact ih ((List.mem_cons.mp hm).resolve_left hj)
  exact key _ (List.mem_range.mpr h)

/-- V2: planes that hold an all-white frame, and pixels at the frame's corners. -/
theorem witness_PixelsReadBack :
    ∃ s : State, (∀ p i, i < 48000 → s.planeByte p i = encodeFrame .black (fun _ _ => 255#8) 64#8 192#8 p i) ∧
      (0 < 800 ∧ 0 < 480) ∧ (799 < 800 ∧ 479 < 480) := by
  refine ⟨{ State.reset with
    pw := (List.range 48000).map fun j => (j, 0xFF#8), pr := (List.range 48000).map fun j => (j, 0x00#8) }, ?_, by decide⟩
  have hc : classify .black 255#8 64#8 192#8 = .white := by decide
  have hm : (0xFF#8 &&& ~~~orMask fun _ => false) = 0xFF#8 := by decide
  have hz : (orMask fun _ => false) = 0x00#8 := by decide
  intro p i hi
  cases p with
  | pw =>
    rw [State.planeByte, State.plane, lookup_filled _ _ _ hi]
    simp only [encodeFrame, hc]
    exact hm.symm
  | pr =>
    rw [State.planeByte, State.plane, lookup_filled _ _ _ hi]
    simp only [encodeFrame, hc]
    exact hz.symm

/-- A black pixel at offset 0 and at offset 7. -/
theorem witness_NoPixelIsBlackAndRed :
    ((0 < 8) ∧ (encodeFrame .black (fun _ _ => 0#8) 64#8 192#8 .pw 0).getLsbD (7 - 0) = false) ∧
    ((7 < 8) ∧ (encodeFrame .black (fun _ _ => 0#8) 64#8 192#8 .pw 47999).getLsbD (7 - 7) = false) := by decide

/-- Every register index, and one past the window. -/
theorem witness_HostRegisterReads : ∀ idx, (asked (.regRead idx)).hostTurn (.regRead idx) [] := fun _ => asked_hostTurn _

theorem witness_HostRegisterWrites :
    ∀ idx v, (asked (.regWrite idx v)).hostTurn (.regWrite idx v) [] := fun _ _ => asked_hostTurn _

/-- Nothing running, at the first and the last byte and one past the end; a write while INIT, SLEEP or ENCODE runs; a read while
INIT, RENDER or SLEEP runs, and of bytes a running ENCODE is not at: the next, the last, the first, and any before its first and
after its last group step. -/
theorem witness_HostPlaneAccess :
    (∀ p i v, (asked (.planeWrite p i v)).hostTurn (.planeWrite p i v) [] ∧ (asked (.planeWrite p i v)).run = false) ∧
    (∀ p i, (asked (.planeRead p i)).hostTurn (.planeRead p i) [] ∧ (asked (.planeRead p i)).run = false) ∧
    (0 < 48000 ∧ 47999 < 48000 ∧ 48000 ≤ 48000) ∧
    (∀ s ∈ [initAt 7, sleepAt 2, encAt 1], ∀ p i v, State.hostTurn { s with inputs := [.planeWrite p i v] }
      (.planeWrite p i v) [] ∧ s.run = true ∧ s.upc.seq ≠ .render) ∧
    (∀ s ∈ [initAt 7, sleepAt 2, renderAt 3, encAt 0, encAt 2], ∀ p i, State.hostTurn { s with inputs := [.planeRead p i] }
      (.planeRead p i) [] ∧ s.run = true ∧ s.upc ≠ ⟨.enc, 1⟩) ∧
    (∀ i ∈ [1, 47999], ∀ p, State.hostTurn { encAt 1 with inputs := [.planeRead p i] } (.planeRead p i) [] ∧
      (encAt 1).run = true ∧ (encAt 1).upc = ⟨.enc, 1⟩ ∧ i < 48000 ∧ i ≠ (encAt 1).cursorIndex) ∧
    0 ≠ State.cursorIndex { encAt 1 with ey := 479#16, ebx := 99#16 } := by
  refine ⟨fun _ _ _ => ⟨asked_hostTurn _, rfl⟩, fun _ _ => ⟨asked_hostTurn _, rfl⟩, by decide, ?_, ?_, ?_, by decide⟩
  · intro s hs p i v
    simp only [List.mem_cons, List.not_mem_nil, or_false] at hs
    obtain rfl | rfl | rfl := hs <;> exact ⟨⟨test_wf_standard, rfl, rfl⟩, rfl, by decide⟩
  · intro s hs p i
    simp only [List.mem_cons, List.not_mem_nil, or_false] at hs
    obtain rfl | rfl | rfl | rfl | rfl := hs <;> exact ⟨⟨test_wf_standard, rfl, rfl⟩, rfl, by decide⟩
  · intro i hi p
    exact ⟨⟨test_wf_standard, rfl, rfl⟩, rfl, rfl, by revert i; decide⟩

/-- A write to the byte a RENDER is to send, and a read of the first and the last byte an ENCODE writes. -/
theorem witness_RacingPlaneAccess :
    (State.hostTurn { renderAt 3 with inputs := [.planeWrite .pw 0 1#8] } (.planeWrite .pw 0 1#8) [] ∧
      (renderAt 3).run = true ∧ (renderAt 3).upc.seq = .render) ∧
    (State.hostTurn { encAt 1 with inputs := [.planeRead .pr 0] } (.planeRead .pr 0) [] ∧ (encAt 1).run = true ∧
      (encAt 1).upc = ⟨.enc, 1⟩ ∧ (encAt 1).ebx.toNat < 100 ∧ 0 = (encAt 1).ey.toNat * 100 + (encAt 1).ebx.toNat) ∧
    ((99#16).toNat < 100 ∧ 47999 = (479#16).toNat * 100 + (99#16).toNat) :=
  ⟨⟨⟨by decide, rfl, rfl⟩, rfl, rfl⟩, ⟨⟨by decide, rfl, rfl⟩, by decide⟩, by decide⟩

theorem witness_BlockResetRestoresR51 : (asked .blockReset).hostTurn .blockReset [] := asked_hostTurn _

theorem witness_PresentedImage :
    ((asked (.present (flatImage 9#8))).hostTurn (.present (flatImage 9#8)) [] ∧
      (asked (.present (flatImage 9#8))).run = false) ∧
    (State.hostTurn { encAt 1 with inputs := [.present (flatImage 9#8)] } (.present (flatImage 9#8)) [] ∧
      (encAt 1).run = true ∧ (encAt 1).upc.seq = .enc ∧ flatImage 9#8 ≠ (encAt 1).img) :=
  ⟨⟨asked_hostTurn _, rfl⟩, ⟨by decide, rfl, rfl⟩, by decide⟩

theorem witness_HostProgramLines :
    (asked (.skipUnlessOk 5)).hostTurn (.skipUnlessOk 5) [] ∧ (asked .awaitIdle).hostTurn .awaitIdle [] ∧
    (asked .awaitIdle).run = false := ⟨asked_hostTurn _, asked_hostTurn _, rfl⟩

theorem witness_IllFormedConfigurationsAreRefused :
    State.cfg { State.reset with cfg := { Config.standard with tRstMs := 199 } } ≠ Config.standard ∧
    Config.wf { Config.standard with tRstMs := 199 } = false := by decide

theorem witness_BytesGoOutMsbFirst : 0 < 8 ∧ 7 < 8 := by decide

theorem witness_EventCounts : State.reset.cfg.pollDelayMs = 0 := by decide

/-- A legal state in which INIT is about to write its first phase. -/
def initStarting : State := { initAt 0 with resValid := false }

theorem initStarting_legal : initStarting.Legal := by
  refine ⟨by decide, rfl, by decide, by decide, by decide, by decide, ?_, by decide, by decide, rfl⟩
  simp [State.phaseLegal, initStarting, initAt, runningAt, State.reset, phaseAt]

/-- A legal state whose step goes on, changes the phase and adds an event: for StepKeepsLegal, LegalStatesAlwaysStep,
PhaseChangesOnlyAlongEdges, TraceOnlyGrows and OnlyListedCommandsAreSent. -/
theorem witness_LegalStep : initStarting.Legal ∧
    ∃ t, step initStarting = .next t ∧ t.phase ≠ initStarting.phase ∧ t.trace ≠ initStarting.trace :=
  ⟨initStarting_legal, initStarting.ph .resetting, rfl, by decide, by decide⟩

/-- A next state at each of ENCODE's three rows, and bytes beside the cursor's at both ends of the frame. -/
theorem witness_EncodeLeavesTheController :
    exec (.encode 64#8 192#8) (encAt 0) = .next (encAt 0).echk ∧
    exec (.encode 64#8 192#8) (encAt 1) = .next ((encAt 1).egrp 64#8 192#8) ∧
    exec (.encode 64#8 192#8) (encAt 2) = .next ((encAt 2).complete .ok none) ∧
    (encAt 0).upc.k ≠ 1 ∧ (encAt 2).upc.k ≠ 1 ∧ 1 ≠ (encAt 1).cursorIndex ∧ 47999 ≠ (encAt 1).cursorIndex :=
  ⟨rfl, rfl, rfl, by decide, by decide, by decide, by decide⟩

theorem witness_ControllerLeavesPlanesAndRegisters :
    (∀ low high, Instr.sleep ≠ .encode low high) ∧ (∀ low high, Instr.revision ≠ .encode low high) ∧
    exec .sleep (sleepAt 5) = .next ((sleepAt 5).ph .sleeping) ∧
    exec .revision (initAt 6) = .next ((initAt 6).cm 0x70#8) :=
  ⟨fun _ _ => by simp, fun _ _ => by simp, rfl, rfl⟩

/-- A block turn of a running RENDER that goes on, one that faults, and an
instruction that goes on. -/
theorem witness_OperandRegistersDoNotAffectARunningOperation :
    ((renderAt 0).blockTurn (renderAt 0) ∧ (renderAt 0).run = true ∧
      step (renderAt 0) = .next ((renderAt 0).complete .illegalStateTransition none)) ∧
    ((sleepAt 7).blockTurn (sleepAt 7) ∧ (sleepAt 7).run = true ∧ step (sleepAt 7) = .fault .operationNotRunning) ∧
    exec .deepSleep (sleepAt 4) = .next ((sleepAt 4).dt 0xA5#8) :=
  ⟨⟨⟨test_wf_standard, rfl, .inl ⟨rfl, rfl⟩⟩, rfl, rfl⟩, ⟨⟨test_wf_standard, rfl, .inl ⟨rfl, rfl⟩⟩, rfl, rfl⟩, rfl⟩

/-- Both sides of each stop: at a row of the listing, and at none. -/
theorem witness_WhereAnInstructionStops :
    ((sleepAt 6).upc.seq = .sleep ∧ (sleepAt 6).upc.k < 7) ∧ State.reset.upc.seq ≠ .sleep ∧
    Instr.format .sleep = .hostOp ∧ Instr.format .revision = .wireCmd := by decide

/-- Answers and levels listed in State are the ones the block gets. -/
theorem reliable_listed (s : State) (n : Nat) (h : s.answers = List.replicate n .ok) : s.reliableFor n := by
  intro j hj
  simp [State.answerAt, h, hj]

/-- An INIT that polls three times (W2). -/
theorem witness_InitRunEmitsItsListing :
    ∃ s : State, s.alone ∧ s.run = true ∧ s.lOp = 0x02#8 ∧ s.upc = ⟨.init, 0⟩ ∧ s.wst = .cmd ∧
      s.reliableFor (17 + 2 * (2 + 1)) ∧ s.busyFor 2 := by
  refine ⟨{ runningAt 0x02#8 .init 0 (List.replicate 23 .ok) with samples := [.low, .low, .high] },
    ⟨by decide, rfl, rfl⟩, rfl, rfl, rfl, rfl, reliable_listed _ _ rfl, ?_, by decide⟩
  intro j hj
  interval_cases j <;> rfl

theorem witness_RenderRunSendsBothPlanes :
    ∃ s : State, s.alone ∧ s.run = true ∧ s.lOp = 0x03#8 ∧ s.upc = ⟨.render, 0⟩ ∧ s.wst = .cmd ∧ s.phase = .idle ∧
      s.lArg0.toNat = 48000 ∧ s.lArg1.toNat = 48000 ∧ s.races = [] ∧ s.reliableFor (96003 + 2 * (0 + 1)) ∧ s.busyFor 0 := by
  refine ⟨{ runningAt 0x03#8 .render 0 (List.replicate 96005 .ok) with
      samples := [.high], phase := .idle, lArg0 := 48000#32, lArg1 := 48000#32 },
    ⟨by decide, rfl, rfl⟩, rfl, rfl, rfl, rfl, rfl, by decide, by decide, rfl, reliable_listed _ _ rfl, ?_, by decide⟩
  intro j hj
  exact absurd hj (Nat.not_lt_zero j)

theorem witness_SleepRunEmitsItsListing :
    ∃ s : State, s.alone ∧ s.run = true ∧ s.lOp = 0x04#8 ∧ s.upc = ⟨.sleep, 0⟩ ∧ s.wst = .cmd ∧ s.phase = .idle ∧
      s.reliableFor (3 + 2 * (0 + 1)) ∧ s.busyFor 0 := by
  refine ⟨{ runningAt 0x04#8 .sleep 0 (List.replicate 5 .ok) with samples := [.high], phase := .idle },
    ⟨by decide, rfl, rfl⟩, rfl, rfl, rfl, rfl, rfl, reliable_listed _ _ rfl, ?_, by decide⟩
  intro j hj
  exact absurd hj (Nat.not_lt_zero j)

theorem witness_EncodeRunEqualsTheFrameFunction :
    ∃ s : State, s.alone ∧ s.run = true ∧ s.lOp = 0x01#8 ∧ s.upc = ⟨.enc, 0⟩ ∧ s.imgDisturbed = false ∧
      s.img.width.toNat = 800 ∧ s.img.height.toNat = 480 :=
  ⟨{ encAt 0 with img := flatImage 255#8 }, ⟨by decide, rfl, rfl⟩, rfl, rfl, rfl, rfl, by decide, by decide⟩

/-- A SLEEP whose panel stays busy for two polls, with no poll delay and with one of 5 ms. -/
theorem witness_BusyPanelHangsTheBlock (ms : Nat) (hms : ms = 0 ∨ ms = 5) :
    ∃ s : State, s.Legal ∧ s.inputs = [] ∧ s.row = some .wi ∧ s.wst = .cmd ∧ s.cfg.pollDelayMs = ms ∧
      s.reliableFor (2 * 2) ∧ ∀ j, j < 2 → s.sampleAt j = s.cfg.busyActive := by
  refine ⟨{ runningAt 0x04#8 .sleep 2 (List.replicate 4 .ok) with
      samples := [.low, .low], phase := .idle, cfg := { Config.standard with pollDelayMs := ms } }, ?_,
    rfl, rfl, rfl, rfl, reliable_listed _ _ rfl, ?_⟩
  · obtain rfl | rfl := hms <;>
      exact ⟨by decide, rfl, by decide, by decide, by decide, by decide, rfl, by decide, by decide, rfl⟩
  · intro j hj
    interval_cases j <;> rfl

end Sys2Proof.Tests
end

section
/-! ## Scope (00_scope.md): R10's well-formed configurations, and what a step does with any other -/

namespace Sys2Proof

/-- R10's constraints on a frame size. -/
theorem Config.sizeWf_iff (w h : Nat) : Config.sizeWf w h = true ↔ 0 < w ∧ 0 < h ∧ w % 8 = 0 :=
  decide_eq_true_iff

/-- The frame size of this hardware meets R10's constraints, so they restrict no configuration (R9). -/
@[simp] theorem Config.sizeWf_hardware : Config.sizeWf Config.width Config.height = true :=
  (Config.sizeWf_iff _ _).2 (by decide)

/-- The check of the lines is pairwise distinctness (R10). -/
theorem Config.linesDistinct_iff (c : Config) : c.linesDistinct = true ↔
    c.lineRst ≠ c.lineCs ∧ c.lineRst ≠ c.lineDc ∧ c.lineRst ≠ c.lineBusy ∧
      c.lineCs ≠ c.lineDc ∧ c.lineCs ≠ c.lineBusy ∧ c.lineDc ≠ c.lineBusy :=
  decide_eq_true_iff

/-- What is left of R10 for this hardware's frame: the reset hold and the lines. -/
theorem Config.wf_iff (c : Config) : c.wf = true ↔ 200 ≤ c.tRstMs ∧ c.linesDistinct = true := by
  simp [Config.wf]

/-- Whatever is queued at the bench port or by the host, the check of the configuration comes first. -/
theorem Machine.step_illFormed (s : Machine.State) (h : s.cfg.wf = false) :
    Machine.step s = .refused .illFormedConfiguration :=
  if_neg (Bool.eq_false_iff.1 h)

/-- Settles O35: the checks are R10's conditions, one by one, and a step begins with them. -/
theorem illFormedConfigurationsAreRefused : Obligations.IllFormedConfigurationsAreRefused := by
  refine ⟨fun c => ?_, Config.sizeWf_iff, Machine.step_illFormed⟩
  rw [Config.wf_iff, Config.linesDistinct_iff]

end Sys2Proof
end

section
/-! ## The rows of the listings (40_encoder.md R140, 41_controller.md R178, R182, R186)

What a micro-operation's place in its listing says about the sequencer and the phase, found once for all rows. -/

namespace Sys2Proof.Machine

/-- The number of rows of a sequence's listing. -/
def Seq.rows : Seq → Nat
  | .enc => 3
  | .init => 24
  | .render => 12
  | .sleep => 7
  | .none | .rsv => 0

theorem State.listing_length (s : State) : s.listing.length = s.upc.seq.rows := by
  unfold State.listing
  cases s.upc.seq <;> rfl

/-- A controller row that another row follows, which goes with the phase `q`. -/
def Upc.goesOn (u : Upc) (q : Option Phase) : Prop :=
  u.seq ≠ .enc ∧ u.k + 1 < u.seq.rows ∧ phaseAt ⟨u.seq, u.k + 1⟩ = q

/-- What the rows of a micro-operation have in common, whichever listing they stand in. -/
def Upc.fits (u : Upc) : MicroOp → Prop
  | .ph p => u.goesOn (some p)
  | .wl l _ => l = .rst ∧ u.goesOn (phaseAt u)
  | .dl _ | .cm _ | .dt _ | .dp _ | .wi => u.goesOn (phaseAt u)
  | .rchk _ _ | .schk => phaseAt u = none ∧ u.goesOn (some .idle)
  | .fin => phaseAt u ≠ some .initializing
  | .echk => u = ⟨.enc, 0⟩
  | .egrp _ _ => u = ⟨.enc, 1⟩
  | .efin => u = ⟨.enc, 2⟩

theorem encListing_fits (low high : Byte) : ∀ r ∈ (encListing low high).zipIdx, Upc.fits ⟨.enc, r.2⟩ r.1 := by
  simp [encListing, Upc.fits]

theorem initListing_fits (c : Config) : ∀ r ∈ (initListing c).zipIdx, Upc.fits ⟨.init, r.2⟩ r.1 := by
  simp [initListing, Upc.fits, Upc.goesOn, Seq.rows, phaseAt]

theorem renderListing_fits (lw lr : Word) : ∀ r ∈ (renderListing lw lr).zipIdx, Upc.fits ⟨.render, r.2⟩ r.1 := by
  simp [renderListing, Upc.fits, Upc.goesOn, Seq.rows, phaseAt]

theorem sleepListing_fits : ∀ r ∈ sleepListing.zipIdx, Upc.fits ⟨.sleep, r.2⟩ r.1 := by
  simp [sleepListing, Upc.fits, Upc.goesOn, Seq.rows, phaseAt]

/-- Every row of the four listings is in its place. -/
theorem State.row_fits (s : State) (m : MicroOp) (h : s.row = some m) : s.upc.fits m := by
  have hm : (m, s.upc.k) ∈ s.listing.zipIdx := List.mem_zipIdx_iff_getElem?.mpr h
  rw [show s.upc = ⟨s.upc.seq, s.upc.k⟩ from rfl]
  unfold State.listing at hm
  cases hq : s.upc.seq <;> rw [hq] at hm
  case enc => exact encListing_fits _ _ _ hm
  case init => exact initListing_fits _ _ hm
  case render => exact renderListing_fits _ _ _ hm
  case sleep => exact sleepListing_fits _ hm
  all_goals exact absurd hm List.not_mem_nil

end Sys2Proof.Machine
end

section
/-! ## Every step keeps a legal state legal (10_state.md R38 to R41; 30_encoding.md R107) -/

namespace Sys2Proof.Machine

variable {s : State}

/-! ### What being legal says at a row -/

theorem zero_lt_planeBytes : (0#16).toNat < Config.planeBytes := by decide

theorem State.Legal.waitLegal (h : s.Legal) : s.waitLegal := by
  obtain ⟨-, -, -, hw, -⟩ := h
  exact hw

theorem State.Legal.pixLegal (h : s.Legal) : s.pixLegal := by
  obtain ⟨-, -, -, -, hp, -⟩ := h
  exact hp

theorem State.Legal.cursorLegal (h : s.Legal) : s.cursorLegal := by
  obtain ⟨-, -, -, -, -, hc, -⟩ := h
  exact hc

theorem State.Legal.phaseLegal (h : s.Legal) : s.phaseLegal := by
  obtain ⟨-, -, -, -, -, -, hph, -⟩ := h
  exact hph

/-- The wait's sub-state and PIX are at rest: no wait and no plane transmission has begun (R40). -/
def State.atRest (s : State) : Prop := s.wst = .cmd ∧ s.pix = 0#16

theorem State.atRest.waitLegal (h : s.atRest) : s.waitLegal :=
  ⟨fun hn => absurd h.1 hn, fun hn => absurd (h.1.symm.trans hn) (by decide)⟩

theorem State.atRest.pixLegal (h : s.atRest) : s.pixLegal :=
  ⟨by rw [h.2]; exact zero_lt_planeBytes, fun hn => absurd h.2 hn⟩

/-- Outside the rows of a busy-wait and of a plane transmission both rest. -/
theorem State.Legal.atRest (h : s.Legal) (hwi : s.row ≠ some .wi) (hdp : ∀ p, s.row ≠ some (.dp p)) : s.atRest :=
  ⟨by_contra fun hc => hwi (h.waitLegal.1 hc), by_contra fun hc => (h.pixLegal.2 hc).elim (hdp _) (hdp _)⟩

/-- Initializing is held only while INIT's listing says so (R171). -/
theorem State.phaseLegal.ne_initializing (h : s.phaseLegal) (hp : phaseAt s.upc ≠ some .initializing) :
    s.phase ≠ .initializing := by
  unfold State.phaseLegal at h
  split at h
  · rename_i p hq
    exact fun hc => hp (by rw [hq, ← h, hc])
  · exact h

/-- The phase a row goes with, when there is one. -/
theorem State.phaseLegal_of_some (s : State) (p : Phase) (hp : phaseAt s.upc = some p) : s.phaseLegal ↔ s.phase = p := by
  simp only [State.phaseLegal, hp]

/-- Only INIT's rows go with Initializing (R178). -/
theorem phaseAt_initializing (u : Upc) (h : phaseAt u = some .initializing) : u.seq = .init := by
  obtain ⟨q, k⟩ := u
  cases q with
  | init => rfl
  | render =>
    rcases k with _ | _ | k <;> simp only [phaseAt, reduceCtorEq, Option.some.injEq] at h
    split_ifs at h <;> exact absurd h (by decide)
  | sleep =>
    rcases k with _ | k <;> simp only [phaseAt, reduceCtorEq] at h
    split_ifs at h <;> exact absurd h (by decide)
  | none => simp [phaseAt] at h
  | enc => simp [phaseAt] at h
  | rsv => simp [phaseAt] at h

/-! ### The ways a micro-operation leaves its row -/

/-- The part of a legal state that no row moves: RUN, the dispatched sequence, the results, the planes' form, CS. -/
def State.underway : Prop :=
  s.cfg.wf = true ∧ s.bench = none ∧ s.run = true ∧ s.upc.seq = dispatch s.lOp ∧ s.resultLegal ∧ s.planesLegal ∧
  s.lvlCs = .unknown

theorem State.Legal.underway (h : s.Legal) (hr : s.run = true) : s.underway := by
  obtain ⟨hc, hb, ⟨-, hd, -⟩, -, -, -, -, hres, hpl, hcs⟩ := h
  exact ⟨hc, hb, hr, hd hr, hres, hpl, hcs⟩

/-- A state under way is legal when its position, its wait, PIX, cursor and phase are. -/
theorem State.underway.legal (h : s.underway) (hk : s.upc.k < s.upc.seq.rows) (hw : s.waitLegal) (hp : s.pixLegal)
    (hc : s.cursorLegal) (hph : s.phaseLegal) : s.Legal := by
  obtain ⟨hcf, hb, hr, hd, hres, hpl, hcs⟩ := h
  have hne : s.upc.seq ≠ .none ∧ s.upc.seq ≠ .rsv := by
    constructor <;> intro hq <;> rw [hq] at hk <;> exact absurd hk (Nat.not_lt_zero _)
  refine ⟨hcf, hb, ⟨⟨fun _ => hne.1, fun _ => hr⟩, fun _ => hd, ?_, fun _ => s.listing_length ▸ hk⟩, hw, hp, hc, hph,
    hres, hpl, hcs⟩
  exact fun hq => absurd hq (not_or_intro hne.1 hne.2)

/-- The next row, entered with the wait and PIX at rest. -/
theorem State.underway.legal_advance (h : s.underway) (hk : s.upc.k + 1 < s.upc.seq.rows) (h0 : s.atRest)
    (hc : s.advance.cursorLegal) (hph : s.advance.phaseLegal) : s.advance.Legal :=
  have h0' : s.advance.atRest := h0
  State.underway.legal (s := s.advance) h hk h0'.waitLegal h0'.pixLegal hc hph

/-- The cursor of a state in another sequence than ENCODE's. -/
theorem State.Legal.cursorLegal_advance (h : s.Legal) (hq : s.upc.seq ≠ .enc) : s.advance.cursorLegal := by
  obtain ⟨hx, hy, -⟩ := h.cursorLegal
  exact ⟨hx, hy, fun hu => absurd (congrArg Upc.seq hu) hq⟩

/-- A controller row is done, and the next goes with the phase that stands (R174). -/
theorem State.Legal.advance_to (h : s.Legal) (hr : s.run = true) (q : Option Phase) (hg : s.upc.goesOn q)
    (hph : s.advance.phaseLegal) (h0 : s.atRest) : s.advance.Legal := by
  obtain ⟨hq, hk, -⟩ := hg
  exact (h.underway hr).legal_advance hk h0 (h.cursorLegal_advance hq) hph

/-- A controller row is done, and the next goes with the same phase (R174). -/
theorem State.Legal.advance (h : s.Legal) (hr : s.run = true) (hg : s.upc.goesOn (phaseAt s.upc))
    (h0 : s.atRest) : s.advance.Legal := by
  refine h.advance_to hr _ hg ?_ h0
  rw [State.phaseLegal, s.advance_upc, hg.2.2]
  exact h.phaseLegal

/-- `PH` (R190). -/
theorem State.Legal.ph (h : s.Legal) (hr : s.run = true) (p : Phase) (hg : s.upc.goesOn (some p))
    (h0 : s.atRest) : (s.ph p).Legal := by
  obtain ⟨hq, hk, hph⟩ := hg
  exact State.underway.legal_advance (s := (s.setPhase p).emit (.phase p)) (h.underway hr) hk h0
    (h.cursorLegal_advance hq) ((State.phaseLegal_of_some (s.ph p) p hph).mpr rfl)

/-- Completion with a result other than TRANSPORT_ERROR (R37, R107). -/
theorem State.Legal.complete (h : s.Legal) (c : ResultCode) (hc : c ≠ .transportError) (h0 : s.atRest)
    (hph : s.phase ≠ .initializing) : (s.complete c none).Legal := by
  obtain ⟨hcf, hb, -, -, -, ⟨hx, hy, -⟩, -, -, hpl, hcs⟩ := h
  have h0' : (s.complete c none).atRest := h0
  exact ⟨hcf, hb, ⟨by simp, by simp, by simp, by simp⟩, h0'.waitLegal, h0'.pixLegal, ⟨hx, hy, by simp⟩, hph,
    ⟨fun _ => rfl, fun hn => absurd hn hc, by simp⟩, hpl, hcs⟩

/-- The abort, wherever the operation was (R268). -/
theorem State.Legal.abort (h : s.Legal) (e : Terr) : (s.abort e).Legal := by
  obtain ⟨hcf, hb, -, -, -, ⟨hx, hy, -⟩, hph, -, hpl, hcs⟩ := h
  have hq : (if s.upc.seq = .init then Phase.resetting else s.phase) ≠ .initializing := by
    split_ifs with hi
    · decide
    · exact hph.ne_initializing fun hp => hi (phaseAt_initializing _ hp)
  rw [State.abort_eq]
  exact ⟨hcf, hb, ⟨by simp, by simp, by simp, by simp⟩, ⟨by simp, by simp⟩, ⟨zero_lt_planeBytes, by simp⟩,
    ⟨hx, hy, by simp⟩, hq, ⟨by simp, by simp, by simp⟩, hpl, hcs⟩

/-- The wait's sub-state at a WI row (R196). -/
theorem State.Legal.setWst (h : s.Legal) (w : Wst) (hwi : w ≠ .cmd → s.row = some .wi)
    (hd : w = .delay → 0 < s.cfg.pollDelayMs) : State.Legal { s with wst := w } := by
  obtain ⟨hcf, hb, hs, -, hp, hc, hph, hres, hpl, hcs⟩ := h
  exact ⟨hcf, hb, hs, ⟨hwi, hd⟩, hp, hc, hph, hres, hpl, hcs⟩

/-- PIX at a DP row (R194). -/
theorem State.Legal.setPix (h : s.Legal) (x : BitVec 16) (hx : x.toNat < Config.planeBytes)
    (hdp : x ≠ 0#16 → s.row = some (.dp .pw) ∨ s.row = some (.dp .pr)) : State.Legal { s with pix := x } := by
  obtain ⟨hcf, hb, hs, hw, -, hc, hph, hres, hpl, hcs⟩ := h
  exact ⟨hcf, hb, hs, hw, ⟨hx, hdp⟩, hc, hph, hres, hpl, hcs⟩

/-- Other cells of the planes, in canonical form. -/
theorem State.Legal.setPlaneByte (h : s.Legal) (p : Plane) (i : Nat) (v : Byte) : (s.setPlaneByte p i v).Legal := by
  obtain ⟨hcf, hb, hs, hw, hp, hc, hph, hres, ⟨hpw, hpr⟩, hcs⟩ := h
  have hpl : (s.setPlaneByte p i v).planesLegal :=
    ⟨s.setPlaneByte_wf p .pw i v hpw, s.setPlaneByte_wf p .pr i v hpr⟩
  rw [State.setPlaneByte_frame]
  exact ⟨hcf, hb, hs, hw, hp, hc, hph, hres, hpl, hcs⟩

/-! ### The micro-operations -/

/-- The collaborators' draws, the trace and the outputs but CS are free in a legal state (log 5). -/
theorem State.Legal.drawn {as : List Answer} {ac : Nat} {ss : List Level} {sc : Nat} {tr : List Event} {rst dc bs : Lvl}
    (h : s.Legal) : State.Legal { s with
      answers := as, answerCtr := ac, samples := ss, sampleCtr := sc, trace := tr
      lvlRst := rst, lvlDc := dc, bsample := bs } := h

theorem State.Legal.wl (h : s.Legal) (hr : s.run = true) (v : Level) (hg : s.upc.goesOn (phaseAt s.upc))
    (h0 : s.atRest) : (s.wl .rst v).Legal := by
  cases ha : s.nextAnswer with
  | ok => rw [s.wl_rst_ok v ha]; exact h.drawn.advance hr hg h0
  | fail e => rw [s.wl_rst_fail v e ha]; exact h.drawn.abort e

theorem State.Legal.dt (h : s.Legal) (hr : s.run = true) (b : Byte) (hg : s.upc.goesOn (phaseAt s.upc))
    (h0 : s.atRest) : (s.dt b).Legal := by
  cases ha : s.nextAnswer with
  | ok => rw [s.dt_ok b ha]; exact h.drawn.advance hr hg h0
  | fail e => rw [s.dt_fail b e ha]; exact h.drawn.abort e

theorem State.Legal.cm (h : s.Legal) (hr : s.run = true) (b : Byte) (hrow : s.row = some (.cm b))
    (hg : s.upc.goesOn (phaseAt s.upc)) (h0 : s.atRest) : (s.cm b).Legal := by
  cases ha : s.nextAnswer with
  | ok =>
    rw [s.cm_ok b ha, State.commandSent_row]
    · exact h.drawn.advance hr hg h0
    · exact hrow
  | fail e => rw [s.cm_fail b e ha]; exact h.drawn.abort e

theorem State.Legal.nextByte (h : s.Legal) (hr : s.run = true) (p : Plane) (hrow : s.row = some (.dp p))
    (hg : s.upc.goesOn (phaseAt s.upc)) (hw : s.wst = .cmd) : s.nextByte.Legal := by
  have hx : s.pix.toNat < Config.planeBytes := h.pixLegal.1
  have hx1 : (s.pix + 1#16).toNat = s.pix.toNat + 1 :=
    pix_add_toNat s.pix 1 (by simp only [Config.planeBytes] at hx; omega)
  rw [State.nextByte_eq]
  split_ifs with hl
  · exact (h.setPix 0#16 zero_lt_planeBytes fun hn => absurd rfl hn).advance hr hg ⟨hw, rfl⟩
  · exact h.setPix _ (by omega) fun _ => by cases p <;> simp [hrow]

theorem State.Legal.dp (h : s.Legal) (hr : s.run = true) (p : Plane) (hrow : s.row = some (.dp p))
    (hg : s.upc.goesOn (phaseAt s.upc)) (hw : s.wst = .cmd) : (s.dp p).Legal := by
  cases ha : s.nextAnswer with
  | ok => rw [s.dp_ok p ha]; exact h.drawn.nextByte hr p hrow hg hw
  | fail e => rw [s.dp_fail p e ha]; exact h.drawn.abort e

theorem State.Legal.sampled (h : s.Legal) (hr : s.run = true) (v : Level) (hrow : s.row = some .wi)
    (hg : s.upc.goesOn (phaseAt s.upc)) (hp : s.pix = 0#16) : (s.sampled v).Legal := by
  rw [State.sampled_eq]
  split_ifs with hb hd
  · exact h.setWst .delay (fun _ => hrow) fun _ => hd
  · exact h.setWst .cmd (fun hn => absurd rfl hn) nofun
  · exact (h.setWst .cmd (fun hn => absurd rfl hn) nofun).advance hr hg ⟨rfl, hp⟩

theorem State.Legal.wi (h : s.Legal) (hr : s.run = true) (hrow : s.row = some .wi)
    (hg : s.upc.goesOn (phaseAt s.upc)) (hp : s.pix = 0#16) : s.wi.Legal := by
  unfold State.wi
  split
  next hw =>
    cases ha : s.nextAnswer with
    | ok =>
      rw [s.cm_ok _ ha, State.commandSent_wait]
      · exact h.drawn.setWst .sample (fun _ => hrow) nofun
      · exact hrow
      · exact hw
    | fail e => rw [s.cm_fail _ e ha]; exact h.drawn.abort e
  next =>
    cases ha : s.nextAnswer with
    | ok =>
      rw [s.wiSample_ok ha]
      apply State.Legal.sampled
      exacts [h, hr, hrow, hg, hp]
    | fail e => rw [s.wiSample_fail e ha]; exact h.drawn.abort e
  next => exact h.drawn.setWst .cmd (fun hn => absurd rfl hn) nofun

/-- `RCHK` and `SCHK` passed: an operation that Idle admits goes on in Idle (R183, R187). -/
theorem State.Legal.advance_idle (h : s.Legal) (hr : s.run = true) (hi : s.phase = .idle)
    (hg : s.upc.goesOn (some .idle)) (h0 : s.atRest) : s.advance.Legal :=
  h.advance_to hr _ hg ((State.phaseLegal_of_some s.advance .idle hg.2.2).mpr hi) h0

theorem State.Legal.rchk (h : s.Legal) (hr : s.run = true) (lw lr : Word) (hni : s.phase ≠ .initializing)
    (hg : s.upc.goesOn (some .idle)) (h0 : s.atRest) : (s.rchk lw lr).Legal := by
  unfold State.rchk
  split_ifs with hph hl
  · exact h.complete _ (by decide) h0 hni
  · exact h.complete _ (by decide) h0 hni
  · exact (h.setPix 0#16 zero_lt_planeBytes fun hn => absurd rfl hn).advance_idle hr (not_not.mp hph) hg ⟨h0.1, rfl⟩

theorem State.Legal.schk (h : s.Legal) (hr : s.run = true) (hni : s.phase ≠ .initializing)
    (hg : s.upc.goesOn (some .idle)) (h0 : s.atRest) : s.schk.Legal := by
  unfold State.schk
  split_ifs with hph
  · exact h.complete _ (by decide) h0 hni
  · exact h.advance_idle hr (not_not.mp hph) hg h0

/-- The cursor inside the frame (R41). -/
theorem State.Legal.setCursor (h : s.Legal) (y x : BitVec 16) (hx : x.toNat < Config.bytesPerRow)
    (hy : y.toNat < Config.height) : State.Legal { s with ey := y, ebx := x } := by
  obtain ⟨hcf, hb, hs, hw, hp, -, hph, hres, hpl, hcs⟩ := h
  exact ⟨hcf, hb, hs, hw, hp, ⟨hx, Nat.le_of_lt hy, fun _ => hy⟩, hph, hres, hpl, hcs⟩

/-- ENCODE's next row: its rows go with no phase of their own (R140). -/
theorem State.underway.legal_advance_enc (h : s.underway) (hph : s.phaseLegal) (k : Nat) (hu : s.upc = ⟨.enc, k⟩)
    (hk : k + 1 < 3) (h0 : s.atRest) (hc : s.advance.cursorLegal) : s.advance.Legal := by
  refine h.legal_advance ?_ h0 hc ?_
  · simpa only [hu, Seq.rows] using hk
  · simpa only [State.phaseLegal, State.advance_upc, State.advance_phase, hu, phaseAt] using hph

theorem State.Legal.echk (h : s.Legal) (hr : s.run = true) (hu : s.upc = ⟨.enc, 0⟩) (hni : s.phase ≠ .initializing)
    (h0 : s.atRest) : s.echk.Legal := by
  have hx : (0#16).toNat < Config.bytesPerRow := by decide
  have hy : (0#16).toNat < Config.height := by decide
  unfold State.echk
  split_ifs with hs
  · exact h.complete _ (by decide) h0 hni
  · exact State.underway.legal_advance_enc (s := { s with ey := 0#16, ebx := 0#16 }) (h.underway hr) h.phaseLegal 0 hu
      (by decide) h0 ⟨hx, hy.le, fun _ => hy⟩

/-- The cursor's step inside the frame: to a group of the frame, or past its last to EFIN (R146). -/
theorem State.Legal.nextGroup (h : s.Legal) (hr : s.run = true) (hu : s.upc = ⟨.enc, 1⟩)
    (h0 : s.atRest) : s.nextGroup.Legal := by
  obtain ⟨hx, -, hy⟩ := h.cursorLegal
  replace hy := hy hu
  have hx0 : (0#16).toNat < Config.bytesPerRow := by decide
  have hx1 : (s.ebx + 1#16).toNat = s.ebx.toNat + 1 :=
    pix_add_toNat s.ebx 1 (by simp only [Config.bytesPerRow] at hx; omega)
  have hy1 : (s.ey + 1#16).toNat = s.ey.toNat + 1 :=
    pix_add_toNat s.ey 1 (by simp only [Config.height] at hy; omega)
  rw [State.nextGroup_eq s hx hy]
  by_cases hrow : s.ebx.toNat + 1 = Config.bytesPerRow
  · by_cases hlast : s.ey.toNat + 1 = Config.height
    · simp only [hrow, hlast, and_self, if_true]
      exact State.underway.legal_advance_enc (s := { s with ey := s.ey + 1#16, ebx := 0#16 }) (h.underway hr)
        h.phaseLegal 1 hu (by decide) h0 ⟨hx0, (hy1.trans hlast).le, by simp [hu]⟩
    · simp only [hrow, hlast, and_false, if_true, if_false]
      exact h.setCursor _ _ hx0 (by omega)
  · simp only [hrow, false_and, if_false]
    exact h.setCursor _ _ (by omega) hy

theorem State.Legal.egrp (h : s.Legal) (hr : s.run = true) (low high : Byte) (hu : s.upc = ⟨.enc, 1⟩)
    (h0 : s.atRest) : (s.egrp low high).Legal :=
  ((h.setPlaneByte _ _ _).setPlaneByte _ _ _).nextGroup (by simpa using hr) (by simpa using hu)
    (by simpa [State.atRest] using h0)

/-- The row at `upc` keeps a legal state legal (R174). -/
theorem State.Legal.micro (h : s.Legal) (hr : s.run = true) (m : MicroOp) (hrow : s.row = some m) :
    (s.micro m).Legal := by
  have hf := s.row_fits m hrow
  have h0 := h.atRest
  have hw := h.waitLegal.1
  have hp := h.pixLegal.2
  have hni := h.phaseLegal.ne_initializing
  rw [hrow] at h0 hw hp
  cases m with
  | wi => exact h.wi hr hrow hf (by_contra fun hc => by simpa using hp hc)
  | dp p => exact h.dp hr p hrow hf (by_contra fun hc => by simpa using hw hc)
  | ph p => exact h.ph hr p hf (h0 nofun nofun)
  | wl l v =>
    obtain ⟨rfl, hg⟩ := hf
    exact h.wl hr v hg (h0 nofun nofun)
  | dl ms => exact h.drawn.advance hr hf (h0 nofun nofun)
  | cm b => exact h.cm hr b hrow hf (h0 nofun nofun)
  | dt b => exact h.dt hr b hf (h0 nofun nofun)
  | rchk lw lr =>
    obtain ⟨hn, hg⟩ := hf
    exact h.rchk hr lw lr (hni (by simp [hn])) hg (h0 nofun nofun)
  | schk =>
    obtain ⟨hn, hg⟩ := hf
    exact h.schk hr (hni (by simp [hn])) hg (h0 nofun nofun)
  | fin => exact h.complete _ (by decide) (h0 nofun nofun) (hni hf)
  | echk =>
    have hu : s.upc = ⟨.enc, 0⟩ := hf
    exact h.echk hr hu (hni (by simp [hu, phaseAt])) (h0 nofun nofun)
  | egrp low high => exact h.egrp hr low high hf (h0 nofun nofun)
  | efin =>
    have hu : s.upc = ⟨.enc, 2⟩ := hf
    exact h.complete _ (by decide) (h0 nofun nofun) (hni (by simp [hu, phaseAt]))

/-! ### The host's requests -/

/-- A register write is an accepted START or changes operand registers alone (R33 to R35). -/
theorem State.regWrite_cases (s : State) (idx v : Nat) :
    (s.run = false ∧ s.regWrite idx v = s.start) ∨
    ∃ op a0 a1, s.regWrite idx v = { s with op := op, arg0 := a0, arg1 := a1 } := by
  unfold State.regWrite
  split
  case h_4 =>
    split_ifs with h
    · exact .inl ⟨h.2, rfl⟩
    · exact .inr ⟨_, _, _, rfl⟩
  all_goals exact .inr ⟨_, _, _, rfl⟩

/-- A host write of a plane byte changes the planes and the race marks (R45, R74). -/
theorem State.hostPlaneWrite_writes (s : State) (p : Plane) (i : Nat) (v : Byte) :
    ∃ rs n, s.hostPlaneWrite p i v = { s.setPlaneByte p i v with races := rs, raceCtr := n } := by
  unfold State.hostPlaneWrite
  split_ifs with hi
  · exact ⟨_, _, rfl⟩
  · exact ⟨_, _, rfl⟩
  · have hs : s.setPlaneByte p i v = s := if_neg hi
    exact ⟨s.races, s.raceCtr, by rw [hs]⟩

/-- A host read of a plane byte changes what the model holds of reads and races (R45). -/
theorem State.hostPlaneRead_reads (s : State) (p : Plane) (i : Nat) :
    ∃ v n, s.hostPlaneRead p i = { s with lastRead := v, raceCtr := n } := by
  unfold State.hostPlaneRead
  split
  · split <;> exact ⟨_, _, rfl⟩
  · exact ⟨_, _, rfl⟩

/-- Presenting an image changes the image and its marks (R80). -/
theorem State.present_presents (s : State) (img : Image) :
    ∃ d n, s.present img = { s with img := img, imgDisturbed := d, imgEpoch := n } := by
  unfold State.present
  split_ifs <;> exact ⟨_, _, rfl⟩

/-- A block that does not run is at no row, and its wait and PIX rest (R37, R40). -/
theorem State.Legal.atRest_of_idle (h : s.Legal) (hr : s.run = false) : s.upc.seq = .none ∧ s.atRest := by
  obtain ⟨-, -, ⟨hs, -⟩, -⟩ := id h
  have hq : s.upc.seq = .none := by_contra fun hn => by simp [hs.mpr hn] at hr
  have hrow : s.row = none := by simp [State.row, State.listing, hq]
  exact ⟨hq, h.atRest (by simp [hrow]) (by simp [hrow])⟩

/-- A sequence begins at its first row, if it has rows. -/
theorem Seq.rows_pos (q : Seq) (h : q ≠ .none ∧ q ≠ .rsv) : 0 < q.rows := by
  cases q <;> simp_all [Seq.rows]

/-- An operation may start in any phase that is no operation's own (R171). -/
theorem phaseAt_start (q : Seq) : phaseAt ⟨q, 0⟩ = none := by
  cases q <;> rfl

/-- An accepted START (R36). -/
theorem State.Legal.start (h : s.Legal) (hr : s.run = false) : s.start.Legal := by
  obtain ⟨hq, h0⟩ := h.atRest_of_idle hr
  have h0' : s.start.atRest := h0
  have hni : s.phase ≠ .initializing := h.phaseLegal.ne_initializing fun hc => by
    simpa [hq] using phaseAt_initializing _ hc
  have hd : dispatch s.op ≠ .none := (op_of_dispatch s.op).2.2.2.2
  obtain ⟨hcf, hb, -, -, -, ⟨hx, hy, -⟩, -, ⟨he1, he2, -⟩, hpm, hcs⟩ := h
  refine ⟨hcf, hb, ⟨by simpa using hd, by simp, by simp, ?_⟩, h0'.waitLegal, h0'.pixLegal, ⟨hx, hy, by simp⟩, ?_,
    ⟨he1, he2, fun _ => rfl⟩, hpm, hcs⟩
  · rw [State.listing_length]
    exact Seq.rows_pos _
  · simpa only [State.phaseLegal, State.start_upc, State.start_phase, phaseAt_start] using hni

/-- Settles O40: each part of the invariant, evaluated at R51's values. -/
theorem resetIsLegal : Obligations.ResetIsLegal :=
  ⟨by decide, rfl, by decide, by decide, by decide, by decide, show State.reset.phase ≠ .initializing by decide,
    by decide, by decide, rfl⟩

/-- Block reset gives the block R51's values and leaves the configuration, the bench port and the planes (R300, R303). -/
theorem State.Legal.blockReset (h : s.Legal) : s.blockReset.Legal := by
  obtain ⟨hcf, hb, -, -, -, -, -, -, hpl, -⟩ := h
  obtain ⟨-, -, hs, -, hp, hc, hph, hres, -, hcs⟩ := resetIsLegal
  exact ⟨hcf, hb, hs, ⟨fun hn => absurd rfl hn, nofun⟩, hp, hc, hph, hres, hpl, hcs⟩

/-- No request of the host makes a legal state illegal (R271). -/
theorem State.Legal.hostStep (h : s.Legal) (r : HostReq) : (s.hostStep r).Legal := by
  cases r with
  | regWrite idx v =>
    obtain ⟨hr, he⟩ | ⟨op, a0, a1, he⟩ := s.regWrite_cases idx v <;> simp only [State.hostStep, he]
    exacts [h.start hr, h]
  | planeWrite p i v =>
    obtain ⟨rs, n, he⟩ := s.hostPlaneWrite_writes p i v
    simp only [State.hostStep, he]
    exact h.setPlaneByte p i v
  | planeRead p i =>
    obtain ⟨v, n, he⟩ := s.hostPlaneRead_reads p i
    simp only [State.hostStep, he]
    exact h
  | present img =>
    obtain ⟨d, n, he⟩ := s.present_presents img
    simp only [State.hostStep, he]
    exact h
  | blockReset => exact h.blockReset
  | block | regRead | awaitIdle | skipUnlessOk => exact h

/-- Settles O41: a step of a legal state is a host request, an idle turn, a reserved operation's completion or the row at
`upc` (`step_legal_cases`), and each keeps the state legal. -/
theorem stepKeepsLegal : Obligations.StepKeepsLegal := by
  intro s t h hst
  have hq : ∀ l, State.Legal { s with inputs := l } := fun _ => h
  have next : ∀ u, step s = .next u → u.Legal → t.Legal := fun u hu hL =>
    Host.Outcome.next.inj (hu.symm.trans hst) ▸ hL
  obtain ⟨r, rest, -, -, he⟩ | ⟨l, he, -⟩ | ⟨l, he, hr, hrsv⟩ | ⟨l, m, he, hr, hrow⟩ := step_legal_cases s h
  · exact next _ he ((hq rest).hostStep r)
  · exact next _ he (hq l)
  · have hrow : s.row = none := by simp [State.row, State.listing, hrsv]
    have h0 : s.atRest := h.atRest (by simp [hrow]) (by simp [hrow])
    exact next _ he ((hq l).complete _ (by decide) h0 (h.phaseLegal.ne_initializing (by simp [phaseAt, hrsv])))
  · exact next _ he ((hq l).micro hr m hrow)

end Sys2Proof.Machine
end

section
/-! ## What a step may touch (10_state.md R46; 41_controller.md R174; 42_wire_commands.md R216) -/

namespace Sys2Proof.Machine

variable {s t u : State}

/-! ### The controller's micro-operations -/

/-- `s` with everything a micro-operation of the controller may write taken from `c`. -/
def State.withController (s c : State) : State :=
  { s with
    run := c.run, resValid := c.resValid, result := c.result, resErr := c.resErr, phase := c.phase
    upc := c.upc, wst := c.wst, pix := c.pix, lvlRst := c.lvlRst, lvlDc := c.lvlDc, bsample := c.bsample
    trace := c.trace, answers := c.answers, answerCtr := c.answerCtr, samples := c.samples, sampleCtr := c.sampleCtr }

/-- From `s` to `t` the controller wrote, and of the trace it only appended (R46). -/
def ControllerStep (s t : State) : Prop := t = s.withController t ∧ s.trace <+: t.trace

theorem ControllerStep.trans (h : ControllerStep s t) (k : ControllerStep t u) : ControllerStep s u := by
  have hu : t.withController u = (s.withController t).withController u := congrArg (State.withController · u) h.1
  exact ⟨k.1.trans hu, h.2.trans k.2⟩

theorem State.advance_controllerStep (s : State) : ControllerStep s s.advance := ⟨rfl, List.prefix_rfl⟩

theorem State.complete_controllerStep (s : State) (c : ResultCode) (e : Option Terr) :
    ControllerStep s (s.complete c e) := ⟨rfl, List.prefix_rfl⟩

theorem State.abort_controllerStep (s : State) (e : Terr) : ControllerStep s (s.abort e) := by
  rw [State.abort_eq]
  exact ⟨rfl, List.prefix_append _ _⟩

theorem State.wl_controllerStep (s : State) (v : Level) : ControllerStep s (s.wl .rst v) := by
  cases h : s.nextAnswer with
  | ok => rw [s.wl_rst_ok v h]; exact ⟨rfl, List.prefix_append _ _⟩
  | fail e => rw [s.wl_rst_fail v e h]; exact .trans ⟨rfl, List.prefix_append _ _⟩ (State.abort_controllerStep _ e)

theorem State.commandSent_controllerStep (s : State) (b : Byte) : ControllerStep s (s.commandSent b) := by
  obtain h | h | h := s.commandSent_cases b <;> rw [h] <;> exact ⟨rfl, List.prefix_rfl⟩

theorem State.cm_controllerStep (s : State) (b : Byte) : ControllerStep s (s.cm b) := by
  cases h : s.nextAnswer with
  | ok => rw [s.cm_ok b h]; exact .trans ⟨rfl, List.prefix_append _ _⟩ (State.commandSent_controllerStep _ b)
  | fail e => rw [s.cm_fail b e h]; exact .trans ⟨rfl, List.prefix_append _ _⟩ (State.abort_controllerStep _ e)

theorem State.dt_controllerStep (s : State) (b : Byte) : ControllerStep s (s.dt b) := by
  cases h : s.nextAnswer with
  | ok => rw [s.dt_ok b h]; exact ⟨rfl, List.prefix_append _ _⟩
  | fail e => rw [s.dt_fail b e h]; exact .trans ⟨rfl, List.prefix_append _ _⟩ (State.abort_controllerStep _ e)

theorem State.nextByte_controllerStep (s : State) : ControllerStep s s.nextByte := by
  rw [State.nextByte_eq]
  split_ifs <;> exact ⟨rfl, List.prefix_rfl⟩

theorem State.dp_controllerStep (s : State) (p : Plane) : ControllerStep s (s.dp p) := by
  cases h : s.nextAnswer with
  | ok => rw [s.dp_ok p h]; exact .trans ⟨rfl, List.prefix_append _ _⟩ (State.nextByte_controllerStep _)
  | fail e => rw [s.dp_fail p e h]; exact .trans ⟨rfl, List.prefix_append _ _⟩ (State.abort_controllerStep _ e)

theorem State.sampled_controllerStep (s : State) (v : Level) : ControllerStep s (s.sampled v) := by
  rw [State.sampled_eq]
  split_ifs <;> exact ⟨rfl, List.prefix_rfl⟩

theorem State.wiSample_controllerStep (s : State) : ControllerStep s s.wiSample := by
  cases h : s.nextAnswer with
  | ok => rw [s.wiSample_ok h]; exact .trans ⟨rfl, List.prefix_append _ _⟩ (State.sampled_controllerStep _ _)
  | fail e => rw [s.wiSample_fail e h]; exact .trans ⟨rfl, List.prefix_append _ _⟩ (State.abort_controllerStep _ e)

theorem State.wi_controllerStep (s : State) : ControllerStep s s.wi := by
  unfold State.wi
  split
  · exact s.cm_controllerStep _
  · exact s.wiSample_controllerStep
  · exact ⟨rfl, List.prefix_append _ _⟩

theorem State.rchk_controllerStep (s : State) (lw lr : Word) : ControllerStep s (s.rchk lw lr) := by
  unfold State.rchk
  split_ifs <;> exact ⟨rfl, List.prefix_rfl⟩

theorem State.schk_controllerStep (s : State) : ControllerStep s s.schk := by
  unfold State.schk
  split_ifs <;> exact ⟨rfl, List.prefix_rfl⟩

/-- The rows of INIT, RENDER and SLEEP: none of the encoder's, and RST the only line driven (R178, R182, R186). -/
def MicroOp.ofController : MicroOp → Prop
  | .wl l _ => l = .rst
  | .echk | .egrp _ _ | .efin => False
  | .ph _ | .dl _ | .cm _ | .dt _ | .dp _ | .wi | .rchk _ _ | .schk | .fin => True

theorem initListing_ofController (c : Config) : ∀ m ∈ initListing c, m.ofController := by
  simp [initListing, MicroOp.ofController]

theorem renderListing_ofController (lw lr : Word) : ∀ m ∈ renderListing lw lr, m.ofController := by
  simp [renderListing, MicroOp.ofController]

theorem sleepListing_ofController : ∀ m ∈ sleepListing, m.ofController := by
  simp [sleepListing, MicroOp.ofController]

theorem State.micro_controllerStep (s : State) (m : MicroOp) (h : m.ofController) : ControllerStep s (s.micro m) := by
  cases m with
  | ph p => exact ⟨rfl, List.prefix_append _ _⟩
  | wl l v =>
    obtain rfl : l = .rst := h
    exact s.wl_controllerStep v
  | dl ms => exact ⟨rfl, List.prefix_append _ _⟩
  | cm b => exact s.cm_controllerStep b
  | dt b => exact s.dt_controllerStep b
  | dp p => exact s.dp_controllerStep p
  | wi => exact s.wi_controllerStep
  | rchk lw lr => exact s.rchk_controllerStep lw lr
  | schk => exact s.schk_controllerStep
  | fin => exact s.complete_controllerStep _ _
  | echk | egrp | efin => exact h.elim

/-! ### The instructions -/

theorem State.exchangeStep_controllerStep (s : State) (b : Byte) : ControllerStep s (s.exchangeStep b) := by
  obtain ⟨d, -, -, h⟩ | ⟨p, -, -, h⟩ | h := s.exchangeStep_cases b <;> rw [h]
  exacts [s.dt_controllerStep d, s.dp_controllerStep p, s.cm_controllerStep b]

/-- A host operation's step, when its listing is the controller's. -/
theorem State.operationStep_controllerStep (seq : Seq) (rows : List MicroOp) (hrows : ∀ m ∈ rows, m.ofController)
    (h : s.operationStep seq rows = .next t) : ControllerStep s t := by
  obtain ⟨-, m, hm, rfl⟩ := s.operationStep_next seq rows t h
  exact s.micro_controllerStep m (hrows m (List.mem_of_getElem? hm))

/-- Every instruction but ENCODE is the controller's (R181, R216). -/
theorem exec_controllerStep (i : Instr) (hi : ∀ low high, i ≠ .encode low high) (h : exec i s = .next t) :
    ControllerStep s t := by
  have wire : i.format = .wireCmd → ControllerStep s t := fun hf => by
    obtain rfl := Host.Outcome.next.inj ((exec_wireCmd s i hf).symm.trans h)
    exact s.exchangeStep_controllerStep _
  cases i with
  | encode low high => exact absurd rfl (hi low high)
  | init => exact State.operationStep_controllerStep _ _ (initListing_ofController _) h
  | render lw lr => exact State.operationStep_controllerStep _ _ (renderListing_ofController _ _) h
  | sleep => exact State.operationStep_controllerStep _ _ sleepListing_ofController h
  | _ => exact wire rfl

/-- Settles O47: the frame part of `ControllerStep`. -/
theorem controllerLeavesPlanesAndRegisters : Obligations.ControllerLeavesPlanesAndRegisters :=
  fun i _ _ hi h => (exec_controllerStep i hi h).1

/-! ### The trace -/

/-- ENCODE leaves the trace (R154). -/
theorem exec_encode_trace (low high : Byte) (h : exec (.encode low high) s = .next t) : t.trace = s.trace := by
  obtain ⟨-, m, hm, rfl⟩ := s.operationStep_next _ _ t h
  have hm := List.mem_of_getElem? hm
  simp only [encListing, List.mem_cons, List.not_mem_nil, or_false] at hm
  obtain rfl | rfl | rfl := hm
  · simp only [State.micro, State.echk]
    split_ifs <;> rfl
  · rw [State.micro, State.egrp_frame]
  · rfl

/-- No instruction removes or changes an event (R46). -/
theorem exec_trace (i : Instr) (h : exec i s = .next t) : s.trace <+: t.trace := by
  by_cases hi : ∃ low high, i = .encode low high
  · obtain ⟨low, high, rfl⟩ := hi
    exact (exec_encode_trace low high h).symm ▸ List.prefix_rfl
  · exact (exec_controllerStep i (fun low high he => hi ⟨low, high, he⟩) h).2

/-- No request of the host adds an event (R46, R301). -/
theorem State.hostStep_trace (s : State) (r : HostReq) : (s.hostStep r).trace = s.trace := by
  cases r with
  | regWrite idx v =>
    obtain ⟨-, he⟩ | ⟨op, a0, a1, he⟩ := s.regWrite_cases idx v <;> simp only [State.hostStep, he, State.start_trace]
  | planeWrite p i v =>
    obtain ⟨rs, n, he⟩ := s.hostPlaneWrite_writes p i v
    simp only [State.hostStep, he, State.setPlaneByte_trace]
  | planeRead p i =>
    obtain ⟨v, n, he⟩ := s.hostPlaneRead_reads p i
    simp only [State.hostStep, he]
  | present img =>
    obtain ⟨d, n, he⟩ := s.present_presents img
    simp only [State.hostStep, he]
  | block | regRead | blockReset | awaitIdle | skipUnlessOk => rfl

/-- A decoded word that goes on is an instruction's meaning or a reserved operation's completion (R102). -/
theorem State.runDecoded_next (d : Decoded) (h : s.runDecoded d = .next t) :
    (∃ i, exec i s = .next t) ∨ t = s.complete .reservedOperation none := by
  match d, h with
  | .ok i, h => exact .inl ⟨i, h⟩
  | .error (.reservedOperation _), h => exact .inr (Host.Outcome.next.inj h).symm

theorem State.runDecoded_trace (d : Decoded) (h : s.runDecoded d = .next t) : s.trace <+: t.trace := by
  obtain ⟨i, hi⟩ | rfl := State.runDecoded_next d h
  exacts [exec_trace i hi, List.prefix_rfl]

theorem State.blockStep_trace (h : s.blockStep = .next t) : s.trace <+: t.trace := by
  unfold State.blockStep at h
  split_ifs at h
  · exact State.runDecoded_trace _ h
  · exact (Host.Outcome.next.inj h) ▸ List.prefix_rfl

theorem State.turn_trace (h : s.turn = .next t) : s.trace <+: t.trace := by
  have host : ∀ l r, t = State.hostStep { s with inputs := l } r → s.trace <+: t.trace := fun l r he => by
    rw [he, State.hostStep_trace]
  unfold State.turn at h
  split at h
  · exact State.blockStep_trace h
  next rest _ => exact State.blockStep_trace (s := { s with inputs := rest }) h
  · split_ifs at h
    exacts [State.blockStep_trace h, host _ _ (Host.Outcome.next.inj h).symm]
  · exact host _ _ (Host.Outcome.next.inj h).symm

/-- Settles O44: a turn and a byte at the bench port (log 14) append to the trace. -/
theorem traceOnlyGrows : Obligations.TraceOnlyGrows := by
  intro s t h
  suffices hp : s.trace <+: t.trace from hp.imp fun _ => Eq.symm
  unfold step at h
  split_ifs at h
  unfold State.benchOrTurn at h
  split at h
  · exact State.runDecoded_trace (s := { s with bench := none }) _ h
  · exact State.turn_trace h

end Sys2Proof.Machine
end

section
/-! ## The host's turn and the block's turn (10_state.md R32 to R36, R45, R51) -/

namespace Sys2Proof.Machine

variable {s : State}

/-! ### The block's turn -/

/-- Settles O5: on either path of a step the decoded word is an instruction, and its meaning is run. -/
theorem stepRunsDecodedInstruction : Obligations.StepRunsDecodedInstruction := by
  constructor
  · intro s t i ht hr hi
    rw [step_blockTurn s t ht]
    obtain ⟨l, rfl⟩ := State.blockTurn_reads s t ht
    have hd : decode (State.fetch { s with inputs := l }) = .ok i := hi
    rw [State.blockStep, if_pos hr, hd, State.runDecoded]
  · intro s b i hw hb hi
    rw [decode_wireCmd] at hi
    simp only [step, hw, if_true, State.benchOrTurn, hb, hi, State.runDecoded]

/-! ### Register accesses -/

theorem step_regWrite {idx v : Nat} {rest : List HostReq} (h : s.hostTurn (.regWrite idx v) rest) :
    step s = .next (State.regWrite { s with inputs := rest } idx v) :=
  step_hostTurn s _ rest h nofun (.inl nofun)

theorem step_regRead {idx : Nat} {rest : List HostReq} (h : s.hostTurn (.regRead idx) rest) :
    step s = .next { s with inputs := rest, lastRead := some (s.regValue idx) } :=
  step_hostTurn s _ rest h nofun (.inl nofun)

/-- CTRL (R34). -/
theorem State.regWrite_ctrl (s : State) (v : Nat) :
    s.regWrite 3 v = if v % 2 = 1 ∧ s.run = false then s.start else s := rfl

/-- The read-only registers and the reserved indices (R35). -/
theorem State.regWrite_ignored (s : State) (idx v : Nat) (h : 4 ≤ idx) : s.regWrite idx v = s := by
  obtain ⟨k, rfl⟩ := Nat.exists_eq_add_of_le' h
  rfl

/-- The reserved indices read 0 (R35). -/
theorem State.regValue_reserved (s : State) (idx : Nat) (h : 8 ≤ idx) : s.regValue idx = .word 0#32 := by
  obtain ⟨k, rfl⟩ := Nat.exists_eq_add_of_le' h
  rfl

/-- STATUS as a number: RUN is worth 1 and RES_VALID 2 (R32). -/
theorem State.status_eq (s : State) :
    s.status = BitVec.ofNat 32 ((if s.run then 1 else 0) + (if s.resValid then 2 else 0)) := by
  unfold State.status
  cases s.run <;> cases s.resValid <;> rfl

/-- Settles O8: the write of CTRL is an accepted START or nothing. -/
theorem startRule : Obligations.StartRule := by
  intro s v rest
  refine ⟨fun h hv hr => ?_, fun h hv => ?_, step_regRead⟩
  · rw [step_regWrite h, State.regWrite_ctrl, if_pos ⟨hv, hr⟩, State.start, dispatch_eq]
  · have hn : ¬(v % 2 = 1 ∧ s.run = false) := by
      rintro ⟨h1, hr⟩
      exact hv.elim (by omega) (by simp [hr])
    rw [step_regWrite h, State.regWrite_ctrl, if_neg hn]

/-- Settles O28: each register's value; the two tables are the codes of RESULT and PHASE, row by row. -/
theorem hostRegisterReads : Obligations.HostRegisterReads := by
  intro s idx rest h
  refine ⟨s.regValue idx, step_regRead h, ?op, ?arg0, ?arg1, ?ctrl, ?status, ?result, ?resErr, ?phase,
    s.regValue_reserved idx⟩ <;> rintro rfl
  case status => exact congrArg HostValue.word s.status_eq
  case result =>
    intro r hr hres
    have hc : r.1.code = r.2 := by clear hres; revert r; decide
    rw [State.regValue, hres, hc]
  case phase =>
    intro r hr hph
    have hc : r.1.code = r.2 := by clear hph; revert r; decide
    rw [State.regValue, hph, hc]
  all_goals rfl

/-- Settles O29: three indices store, and from 4 up a write is ignored. -/
theorem hostRegisterWrites : Obligations.HostRegisterWrites := by
  intro s idx v rest h
  rw [step_regWrite h]
  refine ⟨?_, ?_, ?_, fun hi => by rw [State.regWrite_ignored _ _ _ hi]⟩ <;> rintro rfl <;> rfl

/-! ### Plane accesses -/

theorem step_planeWrite {p : Plane} {i : Nat} {v : Byte} {rest : List HostReq}
    (h : s.hostTurn (.planeWrite p i v) rest) : step s = .next (State.hostPlaneWrite { s with inputs := rest } p i v) :=
  step_hostTurn s _ rest h nofun (.inl nofun)

theorem step_planeRead {p : Plane} {i : Nat} {rest : List HostReq} (h : s.hostTurn (.planeRead p i) rest) :
    step s = .next (State.hostPlaneRead { s with inputs := rest } p i) :=
  step_hostTurn s _ rest h nofun (.inl nofun)

/-- A write that races no RENDER is the plane write alone (R45, R74). -/
theorem State.hostPlaneWrite_noRender (s : State) (p : Plane) (i : Nat) (v : Byte)
    (h : s.run = false ∨ s.upc.seq ≠ .render) : s.hostPlaneWrite p i v = s.setPlaneByte p i v := by
  have hn : ¬(s.run = true ∧ s.upc.seq = .render) := by
    rintro ⟨hr, hq⟩
    exact h.elim (by simp [hr]) (absurd hq)
  unfold State.hostPlaneWrite
  simp only [if_neg hn]
  split_ifs with hi
  · rfl
  · exact (if_neg hi).symm

/-- Past the end of a plane a write is ignored (R74). -/
theorem State.hostPlaneWrite_past (s : State) (p : Plane) (i : Nat) (v : Byte) (h : Config.planeBytes ≤ i) :
    s.hostPlaneWrite p i v = s := if_neg (not_lt.mpr h)

/-- A plane index no running ENCODE is at has no byte under way: only the group row writes (R146). -/
theorem State.writing_none (s : State) (p : Plane) (i : Nat)
    (h : ¬(s.run = true ∧ s.upc = ⟨.enc, 1⟩ ∧ i = s.cursorIndex)) : s.writing p i = none := by
  unfold State.writing
  split
  next low high hrow =>
    have hu : s.upc = ⟨.enc, 1⟩ := s.row_fits _ hrow
    exact if_neg fun hc => h ⟨hc.1, hu, hc.2⟩
  next => rfl

/-- Past the end of a plane a read gives 0 (R74). -/
theorem State.hostPlaneRead_past (s : State) (p : Plane) (i : Nat) (h : Config.planeBytes ≤ i) :
    s.hostPlaneRead p i = { s with lastRead := some (.byte 0x00#8) } := if_neg (not_lt.mpr h)

/-- A read that races no group step gives the byte (R45). -/
theorem State.hostPlaneRead_noRace (s : State) (p : Plane) (i : Nat) (hi : i < Config.planeBytes)
    (h : s.writing p i = none) : s.hostPlaneRead p i = { s with lastRead := some (.byte (s.planeByte p i)) } := by
  simp only [State.hostPlaneRead, if_pos hi, h]

/-- Settles O30: a write that races no RENDER is the plane write, a read that races no group step gives the byte, and
past the end nothing is there. -/
theorem hostPlaneAccess : Obligations.HostPlaneAccess := by
  intro s p i v rest
  refine ⟨fun h hi hr => ?_, fun h hi hn => ?_, fun h hi => ?_, fun h hi => ?_⟩
  · refine ⟨State.setPlaneByte { s with inputs := rest } p i v, ?_, ?_, fun q j hj => ?_, State.setPlaneByte_frame _ p i v⟩
    · rw [step_planeWrite h, State.hostPlaneWrite_noRender]
      exact hr
    · rw [State.planeByte_setPlaneByte _ _ _ _ _ _ hi, if_pos ⟨rfl, rfl⟩]
    · rw [State.planeByte_setPlaneByte _ _ _ _ _ _ hi, if_neg hj]
      rfl
  · rw [step_planeRead h, State.hostPlaneRead_noRace _ p i hi]
    · rfl
    · exact s.writing_none p i hn
  · rw [step_planeWrite h, State.hostPlaneWrite_past _ p i v hi]
  · rw [step_planeRead h, State.hostPlaneRead_past _ p i hi]

/-- Settles O39: `State.reset` is written with R51's values. -/
theorem resetState : Obligations.ResetState := by
  unfold Obligations.ResetState
  decide

end Sys2Proof.Machine
end

section
/-! ## A byte at the pins (20_memory.md R81 to R83) -/

namespace Sys2Proof.Machine

/-- The wire order is bit 7 down to bit 0 (R81). -/
theorem getElem?_byteFrame_bits (c : Config) (dc : Level) (b : Byte) {j : Nat} (hj : j < 8) :
    (byteFrame c dc b).bits[j]? = some (Level.ofBool (b.getLsbD (7 - j))) := by
  have horder : ∀ k < 8, [7, 6, 5, 4, 3, 2, 1, 0][k]? = some (7 - k) := by decide
  simp only [byteFrame, List.getElem?_map, horder j hj, Option.map_some]

/-- Settles O36: bit `j` of the frame is bit `7 - j` of the byte, and the rest of the frame, with the DC level of each kind
of wire byte, is as `byteFrame` and `WireByte.frame` are written. -/
theorem bytesGoOutMsbFirst : Obligations.BytesGoOutMsbFirst := by
  intro c b
  refine ⟨fun dc j hj => ?_, fun dc => ⟨rfl, rfl, rfl, rfl, rfl⟩, rfl, rfl⟩
  rw [getElem?_byteFrame_bits c dc b hj]
  cases b.getLsbD (7 - j) <;> rfl

end Sys2Proof.Machine
end

section
/-! ## Decoding and encoding (30_encoding.md R101 to R105, R111, R112) -/

namespace Sys2Proof

open Machine

/-! ### Host operations -/

/-- The decoder of host operations, OP value by OP value (R101, R102). -/
theorem decodeHost_eq (op : Byte) (arg0 arg1 : Word) : decodeHost op arg0 arg1 =
    if op = 0x01#8 then .ok (.encode (operandLow arg0) (operandHigh arg0)) else if op = 0x02#8 then .ok .init
    else if op = 0x03#8 then .ok (.render arg0 arg1) else if op = 0x04#8 then .ok .sleep
    else .error (.reservedOperation op) := by
  split_ifs with h1 h2 h3 h4
  · rw [h1]; rfl
  · rw [h2]; rfl
  · rw [h3]; rfl
  · rw [h4]; rfl
  · exact decodeHost_reserved op arg0 arg1 (by rw [dispatch_eq, if_neg h1, if_neg h2, if_neg h3, if_neg h4])

/-- The op map of R101 with the operand fields of R103: when three words are a given instruction. -/
theorem decodeHost_eq_ok_iff (op : Byte) (arg0 arg1 : Word) (i : Instr) : decodeHost op arg0 arg1 = .ok i ↔
    (op = 0x01#8 ∧ i = .encode (operandLow arg0) (operandHigh arg0)) ∨ (op = 0x02#8 ∧ i = .init) ∨
    (op = 0x03#8 ∧ i = .render arg0 arg1) ∨ (op = 0x04#8 ∧ i = .sleep) := by
  rw [decodeHost_eq]
  split_ifs with h1 h2 h3 h4 <;> simp [*, eq_comm]

/-- The OP value of a request is that of the host operation it decodes to. -/
theorem opcode_of_decodeHost {op : Byte} {arg0 arg1 : Word} {i : Instr} (h : decodeHost op arg0 arg1 = .ok i) :
    i.format = .hostOp ∧ op = i.opcode := by
  obtain ⟨rfl, rfl⟩ | ⟨rfl, rfl⟩ | ⟨rfl, rfl⟩ | ⟨rfl, rfl⟩ := (decodeHost_eq_ok_iff op arg0 arg1 i).1 h <;>
    exact ⟨rfl, rfl⟩

/-- The reserved OP values: 0x00 and everything past 0x04 (R102). -/
theorem dispatch_reserved (op : Byte) (h : op = 0x00#8 ∨ 5 ≤ op.toNat) : dispatch op = .rsv := by
  rw [dispatch_eq]
  split_ifs <;> simp_all

/-- ENCODE's low threshold comes back out of ARG0 (R103, R114). -/
@[simp] theorem operandLow_packThresholds (low high : Byte) : operandLow (packThresholds low high) = low := by
  ext j hj
  have hw : j < 32 := by omega
  simp [operandLow, byteField, packThresholds, hj, hw]

/-- ENCODE's high threshold comes back out of ARG0 (R103, R114). -/
@[simp] theorem operandHigh_packThresholds (low high : Byte) : operandHigh (packThresholds low high) = high := by
  ext j hj
  have hw : 8 + j < 32 := by omega
  simp [operandHigh, byteField, packThresholds, hj, hw]

/-! ### Wire commands -/

/-- The instructions of 42_wire_commands.md, in the order of their command bytes. -/
def wireCommands : List Instr :=
  [.panelSetting, .powerSetting, .powerOff, .powerOn, .deepSleep, .dataStartTransmission1, .dataStop, .displayRefresh,
   .dataStartTransmission2, .cmd15, .lutForVcom, .lutBlue, .lutWhite, .lutGray1, .lutGray2, .lutRed0, .lutRed1, .lutRed2,
   .lutRed3, .lutXon, .pllControl, .vcomAndDataIntervalSetting, .tconSetting, .tconResolution, .revision, .getStatus,
   .autoMeasurementVcom, .readVcomValue, .vcmDcSetting]

theorem mem_wireCommands (i : Instr) : i ∈ wireCommands ↔ i.format = .wireCmd := by
  cases i <;> simp [wireCommands, Instr.format]

/-- A command byte is that of the instruction it decodes to: the decoder's 29 rows, and the row that rejects. -/
theorem opcode_of_decodeWire {b : Byte} {i : Instr} (h : decodeWire b = .ok i) : i.format = .wireCmd ∧ b = i.opcode := by
  unfold decodeWire at h
  split at h
  case h_30 => cases h
  all_goals
    cases h
    exact ⟨rfl, BitVec.eq_of_toNat_eq ‹_›⟩

/-- The decoder finds each command from its byte (R111, R112). -/
theorem decodeWire_opcode : ∀ i ∈ wireCommands, decodeWire i.opcode = .ok i := by decide

/-- When a command byte is a given instruction (R111). -/
theorem decodeWire_eq_ok_iff (b : Byte) (i : Instr) : decodeWire b = .ok i ↔ i ∈ wireCommands ∧ i.opcode = b := by
  constructor
  · intro h
    obtain ⟨hf, rfl⟩ := opcode_of_decodeWire h
    exact ⟨(mem_wireCommands i).2 hf, rfl⟩
  · rintro ⟨hi, rfl⟩
    exact decodeWire_opcode i hi

/-- A wire command is encoded as its command byte alone (R108). -/
theorem encode_of_mem_wireCommands : ∀ i ∈ wireCommands, encode i = .wireCmd i.opcode := by decide

/-! ### Both formats -/

/-- Decoding undoes encoding: by format, and among the host operations only ENCODE's operands are packed. -/
theorem decode_encode (i : Instr) : decode (encode i) = .ok i := by
  cases hf : i.format with
  | hostOp =>
    cases i with
    | encode low high =>
      have hd : decode (encode (.encode low high)) = .ok (.encode _ _) := rfl
      rw [hd, operandLow_packThresholds, operandHigh_packThresholds]
    | init | render | sleep => rfl
    | _ => cases hf
  | wireCmd =>
    have hi := (mem_wireCommands i).2 hf
    rw [encode_of_mem_wireCommands i hi, decode_wireCmd, decodeWire_opcode i hi]

/-- Settles O1: the round trip is `decode_encode`; the other way, each format's decoder answers with the op code it was
given. -/
theorem decodeInvertsEncode : Obligations.DecodeInvertsEncode := by
  refine ⟨decode_encode, fun w i h => ?_⟩
  cases w with
  | hostOp op arg0 arg1 =>
    obtain ⟨hf, rfl⟩ := opcode_of_decodeHost h
    exact .inl ⟨hf, arg0, arg1, rfl⟩
  | wireCmd b =>
    obtain ⟨hf, rfl⟩ := opcode_of_decodeWire h
    exact .inr ⟨hf, rfl⟩

/-- Settles O2: the accepted OP values are the rows of `decodeHost_eq_ok_iff`, every other one is dispatched to RSV. -/
theorem hostWordsDecodeByTheOpMap : Obligations.HostWordsDecodeByTheOpMap := by
  intro op arg0 arg1
  simp only [decode_hostOp, decodeHost_eq_ok_iff]
  refine ⟨fun low high => ?encode, ?init, fun lw lr => ?render, ?sleep,
    fun h => decodeHost_reserved op arg0 arg1 (dispatch_reserved op h)⟩
  case encode => simp [operandLow, operandHigh, byteField]
  all_goals simp

/-- Settles O3: the 29 values are the op codes of `wireCommands`. -/
theorem commandBytesDefined : Obligations.CommandBytesDefined := by
  intro b
  have hmap : (∃ i, decode (.wireCmd b) = .ok i) ↔ b ∈ wireCommands.map Instr.opcode := by
    simp only [decode_wireCmd, decodeWire_eq_ok_iff, List.mem_map]
  exact hmap

/-- Settles O4: the words are closed terms, so decoding them is evaluation. -/
theorem tableWordsDecode : Obligations.TableWordsDecode := by
  unfold Obligations.TableWordsDecode
  decide

end Sys2Proof
end

section
/-! ## Fetching, and the lines of a host program (10_state.md R40; 30_encoding.md R108, R114 to R118) -/

namespace Sys2Proof.Machine

variable {s : State}

/-! ### The instruction at a row -/

/-- A listing's rows are fetched as a table says when each of them, looked up at its place, is. -/
theorem State.fetch_rows {op : Byte} {seq : Seq} (rows : List (Nat × Instr)) (hop : s.lOp = op)
    (hrows : (rows.map fun r => decode (State.fetch { s with lOp := op, upc := ⟨seq, r.1⟩ })) =
      rows.map fun r => Decoded.ok r.2) :
    ∀ r ∈ rows, s.upc = ⟨seq, r.1⟩ → decode s.fetch = .ok r.2 := by
  intro r hr hu
  have hs : s = { s with lOp := op, upc := ⟨seq, r.1⟩ } := by rw [← hop, ← hu]
  rw [hs]
  exact List.map_inj_left.1 hrows r hr

/-- At no position of ENC does a row belong to an exchange (R140). -/
theorem State.fetch_enc (h : s.upc.seq = .enc) : s.fetch = .hostOp s.lOp s.lArg0 s.lArg1 := by
  have hl : s.row = (encListing s.eLow s.eHigh)[s.upc.k]? := by rw [State.row, State.listing, h]
  unfold State.fetch
  rw [hl]
  match s.upc.k with
  | 0 | 1 | 2 | _ + 3 => rfl

/-- A busy-wait's W_CMD sends GET_STATUS, its other sub-states send nothing (R196). -/
theorem State.fetch_wait (h : s.row = some .wi) :
    s.fetch = if s.wst = .cmd then .wireCmd 0x71#8 else .hostOp s.lOp s.lArg0 s.lArg1 := by
  simp only [State.fetch, h]

/-- The places of the three busy-waits (R200). -/
theorem State.row_wait (h : s.upc ∈ ([⟨.init, 12⟩, ⟨.render, 9⟩, ⟨.sleep, 2⟩] : List Upc)) : s.row = some .wi := by
  simp only [List.mem_cons, List.not_mem_nil, or_false] at h
  obtain h | h | h := h <;> simp only [State.row, State.listing, h] <;> rfl

/-- Settles O7: the rows of the three controller listings are looked up one by one, each with the last CM before it. -/
theorem fetchFollowsTheListings : Obligations.FetchFollowsTheListings := by
  intro s
  refine ⟨fun hop => State.fetch_rows _ hop rfl, fun hop => State.fetch_rows _ hop rfl,
    fun hop => State.fetch_rows _ hop rfl, fun hop k hu => ?enc, fun u hmem hu => ?wait⟩
  case enc =>
    rw [State.fetch_enc (by rw [hu]), hop]
    rfl
  case wait =>
    subst hu
    rw [State.fetch_wait (State.row_wait hmem)]
    exact ⟨fun hw => by rw [if_pos hw]; rfl, fun hw => by rw [if_neg hw]⟩

/-! ### Host program lines -/

/-- Settles O34: the expansions are `expandLine`'s rows, and each of the two requests is a host's turn, its effect
`State.hostStep`'s. -/
theorem hostProgramLines : Obligations.HostProgramLines := by
  refine ⟨fun _ _ => rfl, rfl, fun _ _ => rfl, rfl, fun _ _ _ => rfl, fun _ _ => rfl,
    fun s n rest h => ?skip, fun s rest h hr => ?poll⟩
  case skip => exact step_hostTurn s (.skipUnlessOk n) rest h nofun (.inl nofun)
  case poll => exact step_hostTurn s .awaitIdle rest h nofun (.inr hr)

end Sys2Proof.Machine
end

section
/-! ## The frame encoder (40_encoder.md R140 to R156) -/

namespace Sys2Proof.Machine

variable {s t : State}

/-! ### The class of an intensity and the bits of a pixel -/

/-- Settles O24: the cases of R144, by which of the two conditions hold. -/
theorem classifyByThresholds : Obligations.ClassifyByThresholds := by
  intro overlap i low high
  refine ⟨fun hl hh => ?black, fun hl hh => ?white, fun hl hh => ?red, fun hh hl => ?overlap⟩
  case black => simp [classify, hl, Nat.not_le.mpr hh]
  case white => simp [classify, hh, Nat.not_lt.mpr hl]
  case red => simp [classify, Nat.not_lt.mpr hl, Nat.not_le.mpr hh]
  case overlap => cases overlap <;> simp [classify, hl, hh, OverlapClass.toClass]

/-- Settles O27: by `encodeFrame_bit` a white bit of 0 is a BLACK pixel, which is not RED. -/
theorem noPixelIsBlackAndRed : Obligations.NoPixelIsBlackAndRed := by
  intro overlap img low high i o ho hw
  obtain ⟨hpw, hpr⟩ := encodeFrame_bit overlap img low high i o ho
  have hblack := of_decide_eq_false (hpw.symm.trans hw)
  rw [hpr, not_not.mp hblack]
  rfl

/-- The two plane bits of a class name it (R73, R148). -/
theorem classOfBits_of_class (c : PixelClass) :
    classOfBits (decide (c ≠ .black)) (decide (c = .red)) = some c := by
  cases c <;> rfl

/-- A pixel of the frame has its byte inside the plane (R71). -/
theorem pixelIndex_lt (x y : Nat) (hx : x < 800) (hy : y < 480) : pixelIndex x y < 48000 := by
  simp only [pixelIndex, Config.bytesPerRow]
  omega

/-- Settles O26: the masked bits of a pixel's byte are those of its class, at its own row and column. -/
theorem pixelsReadBack : Obligations.PixelsReadBack := by
  intro s overlap img low high hplanes x y hx hy
  have hi := pixelIndex_lt x y hx hy
  obtain ⟨hw, hr⟩ := encodeFrame_bit overlap img low high (pixelIndex x y) (x % 8) (Nat.mod_lt x (by decide))
  obtain ⟨-, hrow, hcol⟩ := pixelIndex_split x y hx
  rw [State.decodePixel, and_pixelMask, and_pixelMask, hplanes _ _ hi, hplanes _ _ hi, hw, hr, hrow, hcol]
  exact classOfBits_of_class _

/-! ### ENCODE's rows -/

/-- At a position of ENC the meaning of ENCODE is the row's micro-operation (R140). -/
theorem exec_encode_row (low high : Byte) (k : Nat) (m : MicroOp) (hu : s.upc = ⟨.enc, k⟩)
    (hm : (encListing low high)[k]? = some m) : exec (.encode low high) s = .next (s.micro m) :=
  s.operationStep_row .enc _ m (by rw [hu]) (by rw [hu]; exact hm)

/-- When ENCODE goes on it is at one of its three rows (R140). -/
theorem exec_encode_cases (low high : Byte) (h : exec (.encode low high) s = .next t) :
    (s.upc = ⟨.enc, 0⟩ ∧ t = s.echk) ∨ (s.upc = ⟨.enc, 1⟩ ∧ t = s.egrp low high) ∨
    (s.upc = ⟨.enc, 2⟩ ∧ t = s.efin) := by
  obtain ⟨hq, m, hm, rfl⟩ := s.operationStep_next _ _ t h
  have hu : s.upc = ⟨.enc, s.upc.k⟩ := by rw [← hq]
  have hfits := encListing_fits low high (m, s.upc.k) (List.mem_zipIdx_iff_getElem?.mpr hm)
  have hmem := List.mem_of_getElem? hm
  simp only [encListing, List.mem_cons, List.not_mem_nil, or_false] at hmem
  obtain rfl | rfl | rfl := hmem
  · exact .inl ⟨hu.trans hfits, rfl⟩
  · exact .inr (.inl ⟨hu.trans hfits, rfl⟩)
  · exact .inr (.inr ⟨hu.trans hfits, rfl⟩)

/-- ECHK of an image of another size than the panel's (R143). -/
theorem State.echk_mismatch (s : State)
    (h : s.img.width.toNat ≠ Config.width ∨ s.img.height.toNat ≠ Config.height) :
    s.echk = s.complete .dimensionMismatch none := if_pos h

/-- ECHK of an image of the panel's size (R143). -/
theorem State.echk_match (s : State) (hw : s.img.width.toNat = Config.width) (hh : s.img.height.toNat = Config.height) :
    s.echk = { s with ey := 0#16, ebx := 0#16, upc := ⟨s.upc.seq, s.upc.k + 1⟩ } :=
  if_neg (not_or_intro (not_not_intro hw) (not_not_intro hh))

/-- Settles O23: ENCODE at k = 0 is ECHK, in its two outcomes. -/
theorem encodeChecksImageSize : Obligations.EncodeChecksImageSize := by
  intro s low high hu
  rw [exec_encode_row low high 0 .echk hu rfl, State.micro]
  refine ⟨fun h => ?_, fun hw hh => ?_⟩
  · rw [s.echk_mismatch h]
    rfl
  · rw [s.echk_match hw hh, hu]

/-- Settles O25: ENCODE at k = 1 is EGRP; its writes are `State.egrp_planeByte`'s, its frame is `State.egrp_eq`'s. -/
theorem encodeGroupWritesBothPlanes : Obligations.EncodeGroupWritesBothPlanes := by
  intro s low high hu hy hx
  have hbyte := s.egrp_planeByte low high hx hy
  refine ⟨s.egrp low high, exec_encode_row low high 1 _ hu rfl, fun p => ?_, fun p j hj => ?_, ?_⟩
  · exact (hbyte p _).trans (if_pos rfl)
  · exact (hbyte p j).trans (if_neg hj)
  · have hframe := s.egrp_eq low high hx hy
    rwa [hu] at hframe

/-- ECHK changes the cursor, the micro-sequencer and the results alone (R143). -/
theorem State.echk_frame (s : State) :
    s.echk = { s with
      ey := s.echk.ey, ebx := s.echk.ebx, upc := s.echk.upc
      run := s.echk.run, resValid := s.echk.resValid, result := s.echk.result, resErr := s.echk.resErr } := by
  unfold State.echk
  split_ifs <;> rfl

/-- Settles O46: row by row. ECHK and EFIN leave the planes; EGRP's frame is `State.egrp_frame` and
`State.egrp_other`. -/
theorem encodeLeavesTheController : Obligations.EncodeLeavesTheController := by
  intro low high s t h
  obtain ⟨-, rfl⟩ | ⟨hu, rfl⟩ | ⟨-, rfl⟩ := exec_encode_cases low high h
  · have hpw : s.echk.pw = s.pw := by rw [s.echk_frame]
    have hpr : s.echk.pr = s.pr := by rw [s.echk_frame]
    refine ⟨?_, fun _ => ⟨hpw, hpr⟩, fun p j _ => s.planeByte_congr _ hpw hpr p j⟩
    rw [s.echk_frame]
  · refine ⟨?_, fun hk => absurd (congrArg Upc.k hu) hk, s.egrp_other low high⟩
    rw [s.egrp_frame]
  · exact ⟨rfl, fun _ => ⟨rfl, rfl⟩, fun _ _ _ => rfl⟩

/-! ### A whole ENCODE -/

/-- EGRP at the frame's last group: the next row is EFIN (R146). -/
theorem State.egrp_last_group (s : State) (low high : Byte) (hu : s.upc = ⟨.enc, 1⟩)
    (hx : s.ebx.toNat + 1 = Config.bytesPerRow) (hy : s.ey.toNat + 1 = Config.height) :
    s.egrp low high = { s with
      pw := (s.egrp low high).pw, pr := (s.egrp low high).pr, ey := (s.egrp low high).ey, ebx := (s.egrp low high).ebx
      upc := ⟨.enc, 2⟩ } := by
  have hupc : (s.egrp low high).upc = ⟨.enc, 2⟩ := by
    rw [s.egrp_eq low high (by omega) (by omega)]
    simp only [hx, hy, hu, and_self, if_true]
  have hframe := s.egrp_frame low high
  rwa [hupc] at hframe

/-- A running ENCODE left alone takes the row of ENC at `upc` (R140). -/
theorem step_alone_enc (ha : s.alone) (hr : s.run = true) (hop : s.lOp = 0x01#8) (k : Nat) (m : MicroOp)
    (hu : s.upc = ⟨.enc, k⟩) (hm : (encListing s.eLow s.eHigh)[k]? = some m) : step s = .next (s.micro m) := by
  have hrow : s.row = some m := by simpa only [State.row, State.listing, hu] using hm
  exact step_alone_row s m ha hr (by rw [hu, hop]; rfl) hrow

/-- A running ENCODE left alone at its group row, the cursor at the frame's first group, takes all 48000 groups and is
then at EFIN (R146, R147): every byte is the frame function's. -/
theorem frame_run (ha : s.alone) (hr : s.run = true) (hop : s.lOp = 0x01#8) (hu : s.upc = ⟨.enc, 1⟩)
    (hx : s.ebx = 0#16) (hy : s.ey = 0#16) :
    ∃ t : State, core.run 48000 s = .next t ∧
      (∀ p j, j < 48000 → t.planeByte p j = encodeFrame s.cfg.overlap s.pixel s.eLow s.eHigh p j) ∧
      t = { s with pw := t.pw, pr := t.pr, ey := t.ey, ebx := t.ebx, upc := ⟨.enc, 2⟩ } := by
  obtain ⟨t, hrun, hbyte, ht⟩ := group_run s 47999 (by decide) ha hr (by rw [hu, hop]; rfl) hu hx hy
  have htu : t.upc = ⟨.enc, 1⟩ := by rw [ht]; exact hu
  have htx : t.ebx.toNat = 99 := by rw [ht]; rfl
  have hty : t.ey.toNat = 479 := by rw [ht]; rfl
  have htl : t.eLow = s.eLow ∧ t.eHigh = s.eHigh := by rw [ht]; exact ⟨rfl, rfl⟩
  have hstep := step_alone_enc (ht ▸ ha) (ht ▸ hr) (ht ▸ hop) 1 _ htu rfl
  rw [htl.1, htl.2] at hstep
  refine ⟨t.egrp s.eLow s.eHigh, (core_run_add s 47999 1 t hrun).trans (core_run_step t 0 _ hstep),
    fun p j hj => ?bytes, ?frame⟩
  case bytes =>
    have hcursor : t.cursorIndex = 47999 := by rw [State.cursorIndex, htx, hty]; rfl
    have hpixel : t.pixel = s.pixel := by rw [ht]; rfl
    have hcfg : t.cfg = s.cfg := by rw [ht]
    rw [t.egrp_planeByte _ _ (by rw [htx]; decide) (by rw [hty]; decide), hcursor, hpixel, hcfg, hbyte]
    split_ifs with hlast hbefore
    · rfl
    · rfl
    · omega
  case frame =>
    rw [t.egrp_last_group _ _ htu (by rw [htx]; rfl) (by rw [hty]; rfl)]
    generalize t.egrp s.eLow s.eHigh = g
    rw [ht]

/-- Settles O53: ECHK passes and clears the cursor, `frame_run` takes the 48000 groups, and EFIN completes. -/
theorem encodeRunEqualsTheFrameFunction : Obligations.EncodeRunEqualsTheFrameFunction := by
  intro s ha hr hop hu hd hw hh
  have hcheck := step_alone_enc ha hr hop 0 _ hu rfl
  rw [State.micro, s.echk_match hw hh, hu] at hcheck
  obtain ⟨t, hrun, hbyte, ht⟩ := frame_run (s := { s with ey := 0#16, ebx := 0#16, upc := ⟨.enc, 1⟩ })
    ha hr hop rfl rfl rfl
  have hfin := step_alone_enc (s := t) (by rw [ht]; exact ha) (by rw [ht]; exact hr) (by rw [ht]; exact hop) 2 .efin
    (by rw [ht]) rfl
  have hpixel : s.pixel = s.img.pixel := by
    funext x y
    simp only [State.pixel, hd, Bool.false_eq_true, if_false]
  refine ⟨t.efin, ?run, fun p i hi => ?bytes, ?trace, ?phase, rfl, rfl, rfl, rfl, rfl⟩
  case run =>
    exact (core_run_step s 48001 _ hcheck).trans
      ((core_run_add _ 48000 1 t hrun).trans (core_run_step t 0 _ hfin))
  case bytes =>
    rw [← hpixel]
    exact hbyte p i hi
  case trace => exact (congrArg State.trace ht :)
  case phase => exact (congrArg State.phase ht :)

end Sys2Proof.Machine
end

section
/-! ## The controller's rows (41_controller.md R174, R178, R182, R186, R190 to R196) -/

namespace Sys2Proof.Machine

variable {s : State}

/-! ### The meaning of an instruction at a row -/

/-- The row a host operation is at, when the micro-sequencer is in its listing (R140, R178, R182, R186). -/
def operationRow (c : Config) (u : Upc) : Instr → Option MicroOp
  | .encode low high => if u.seq = .enc then (encListing low high)[u.k]? else none
  | .init => if u.seq = .init then (initListing c)[u.k]? else none
  | .render lw lr => if u.seq = .render then (renderListing lw lr)[u.k]? else none
  | .sleep => if u.seq = .sleep then sleepListing[u.k]? else none
  | _ => none

/-- At a row of its listing a host operation's meaning is the row's micro-operation (R141, R177, R181, R185). -/
theorem exec_operationRow {i : Instr} {m : MicroOp} (h : operationRow s.cfg s.upc i = some m) :
    exec i s = .next (s.micro m) := by
  have step : ∀ (seq : Seq) (rows : List MicroOp), (if s.upc.seq = seq then rows[s.upc.k]? else none) = some m →
      s.operationStep seq rows = .next (s.micro m) := by
    intro seq rows hrow
    obtain ⟨hseq, hm⟩ := Option.ite_none_right_eq_some.1 hrow
    exact s.operationStep_row seq rows m hseq hm
  cases i with
  | encode | init | render | sleep => exact step _ _ h
  | _ => cases h

/-- The rows of a table of host operations and positions: at each the meaning is what the row does. -/
theorem exec_operationRows {α : Type} {rows : List α} {r : α} (hr : r ∈ rows) (instr : α → Instr) (upc : α → Upc)
    (next : α → State) (htable : (rows.map fun r => (operationRow s.cfg (upc r) (instr r)).map s.micro) =
      rows.map fun r => some (next r)) (hu : s.upc = upc r) : exec (instr r) s = .next (next r) := by
  obtain ⟨m, hm, hnext⟩ := Option.map_eq_some_iff.1 (List.map_inj_left.1 htable r hr)
  rw [exec_operationRow (hu ▸ hm), hnext]

/-- The rows that send a byte of an exchange (R193, R194). -/
def MicroOp.sendsByte : MicroOp → Prop
  | .cm _ | .dt _ | .dp _ => True
  | _ => False

theorem openedBy_append_cm (l : List MicroOp) (b : Byte) (x : Option Byte) : openedBy (l ++ [.cm b]) x = some b := by
  induction l generalizing x with
  | nil => rfl
  | cons m l ih => cases m <;> exact ih _

/-- A CM row belongs to the exchange it opens (R108). -/
theorem State.exchange_of_cm {b : Byte} (h : s.row = some (.cm b)) : s.exchange = some b := by
  rw [State.row] at h
  rw [State.exchange, List.take_add_one, h]
  exact openedBy_append_cm _ b none

/-- At a row of its own exchange a wire command's meaning is the row's micro-operation (R109, log 16). -/
theorem exec_exchangeRow {i : Instr} {m : MicroOp} (hf : i.format = .wireCmd) (hrow : s.row = some m)
    (hx : s.exchange = some i.opcode) (hm : m.sendsByte) : exec i s = .next (s.micro m) := by
  rw [exec_wireCmd s i hf]
  cases m with
  | cm b =>
    obtain rfl : b = i.opcode := Option.some.inj ((State.exchange_of_cm hrow).symm.trans hx)
    simp only [State.exchangeStep, hrow, State.micro]
  | dt | dp => simp only [State.exchangeStep, hrow, hx, if_true, State.micro]
  | _ => exact hm.elim

/-- The rows of a table of wire commands and positions: each is the row listed there, and the meaning is what it does. -/
theorem exec_exchangeRows {α : Type} {rows : List α} {r : α} (hr : r ∈ rows) (instr : α → Instr) (upc : α → Upc)
    (row : α → MicroOp) (hsend : ∀ r, (row r).sendsByte)
    (htable : (rows.map fun r =>
        ((instr r).format, State.row { s with upc := upc r }, State.exchange { s with upc := upc r })) =
      rows.map fun r => (.wireCmd, some (row r), some (instr r).opcode)) (hu : s.upc = upc r) :
    s.row = some (row r) ∧ exec (instr r) s = .next (s.micro (row r)) := by
  have hr := List.map_inj_left.1 htable r hr
  rw [← hu] at hr
  obtain ⟨hf, hrow, hx⟩ : _ ∧ s.row = _ ∧ s.exchange = _ := by simpa only [Prod.mk.injEq] using hr
  exact ⟨hrow, exec_exchangeRow hf hrow hx (hsend r)⟩

/-! ### Completion, phases, lines and delays -/

/-- Settles O10: FIN and EFIN are one completion. -/
theorem finishRowsComplete : Obligations.FinishRowsComplete := fun s _ _ _ _ _ hr hu =>
  exec_operationRows hr (·.1) (·.2) (fun _ => s.fin) rfl hu

/-- Settles O11: the seven rows are PH rows, and a PHASE event is no transfer. -/
theorem phaseRowsWriteThePhase : Obligations.PhaseRowsWriteThePhase :=
  ⟨fun _ => rfl, fun s _ _ _ hr hu => exec_operationRows hr (·.1) (·.2.1) (fun r => s.ph r.2.2) rfl hu⟩

/-- Settles O13: the three rows are DL rows. -/
theorem delayRowsEmitTheirDelay : Obligations.DelayRowsEmitTheirDelay := fun s _ _ _ hr hu =>
  exec_operationRows hr (·.1) (·.2.1) (fun r => s.dl r.2.2) rfl hu

/-- Settles O12: the two rows are INIT's WL rows, with RST driven or the abort. -/
theorem resetPulseDrivesRst : Obligations.ResetPulseDrivesRst := by
  intro s r hr hu
  rw [exec_operationRows hr (fun _ => .init) (fun r => ⟨.init, r.1⟩) (fun r => s.wl .rst r.2) rfl hu]
  refine ⟨fun h => ?ok, fun e h => ?fail⟩
  case ok => rw [s.wl_rst_ok _ h, hu]
  case fail =>
    rw [s.wl_rst_fail _ e h, State.abort_eq]
    simp [hu]

/-! ### Bytes on the bus -/

/-- Settles O14: each row is the CM row of its command, and the byte sent moves it on. -/
theorem commandRowsSendTheirCommand : Obligations.CommandRowsSendTheirCommand := by
  intro s r hr hu h
  obtain ⟨hrow, hexec⟩ := exec_exchangeRows hr (·.1) (·.2.1) (fun r => .cm r.2.2) (fun _ => trivial) rfl hu
  rw [hexec, State.micro, s.cm_ok _ h]
  exact congrArg Host.Outcome.next (State.commandSent_row _ _ hrow)

/-- Settles O15: each row is a DT row in the exchange of its command. -/
theorem dataRowsSendTheirByte : Obligations.DataRowsSendTheirByte := by
  intro s r hr hu h
  obtain ⟨-, hexec⟩ := exec_exchangeRows hr (·.1) (·.2.1) (fun r => .dt r.2.2) (fun _ => trivial) rfl hu
  rw [hexec, State.micro, s.dt_ok _ h]

/-- Inside a plane PIX steps by one (R194). -/
theorem State.nextByte_inside (s : State) (h : s.pix.toNat < 48000) : s.nextByte = { s with
    pix := if s.pix.toNat + 1 = 48000 then 0#16 else s.pix + 1#16
    upc := if s.pix.toNat + 1 = 48000 then ⟨s.upc.seq, s.upc.k + 1⟩ else s.upc } := by
  have hpix : (s.pix + 1#16).toNat = s.pix.toNat + 1 := pix_add_toNat s.pix 1 (by omega)
  rw [State.nextByte_eq, hpix, Config.planeBytes]
  split_ifs <;> rfl

/-- Settles O16: each row is a DP row, in the exchange of its command; its byte is `State.racedByte_cases`'. -/
theorem planeRowsSendTheirByte : Obligations.PlaneRowsSendTheirByte := by
  intro s r hr hu hpix h
  obtain ⟨-, hexec⟩ := exec_exchangeRows hr (·.1) (fun r => ⟨.render, r.2.1⟩) (fun r => .dp r.2.2) (fun _ => trivial)
    rfl hu
  refine ⟨s.racedByte r.2.2 s.pix.toNat, s.racedByte_cases r.2.2 s.pix.toNat, ?_⟩
  rw [hexec, State.micro, s.dp_ok _ h, State.nextByte_inside]
  · simp only [hu]
  · exact hpix

/-! ### The busy-wait -/

/-- Settles O18: the three positions are busy-waits, and GET_STATUS moves one from W_CMD to W_SAMPLE. -/
theorem getStatusPrecedesTheSample : Obligations.GetStatusPrecedesTheSample := by
  rintro s _ hmem rfl hw h
  have hexec : exec .getStatus s = .next (s.cm 0x71#8) := rfl
  rw [hexec, s.cm_ok _ h]
  exact congrArg Host.Outcome.next (State.commandSent_wait _ (State.row_wait hmem) hw)

/-- Settles O19: the three positions are WI rows; W_SAMPLE by its answer and its level, and W_DELAY. -/
theorem busyWaitSamples : Obligations.BusyWaitSamples := by
  intro s lw lr r hr hu
  rw [exec_operationRows hr (·.1) (·.2) (fun _ => s.wi) rfl hu, State.wi]
  refine ⟨fun hw h hb => ?busy, fun hw h hb => ?idle, fun e hw h => ?fail, fun hw => ?delay⟩ <;> simp only [hw]
  case busy => rw [s.wiSample_ok h, State.sampled_eq, if_pos hb]
  case idle => rw [s.wiSample_ok h, State.sampled_eq, if_neg hb]
  case fail =>
    rw [s.wiSample_fail e h, State.abort_eq]
    simp only [List.append_assoc, List.singleton_append]
  case delay => rfl

/-! ### The checks of RENDER and SLEEP -/

/-- RCHK outside Idle (R183). -/
theorem State.rchk_otherPhase (s : State) (lw lr : Word) (h : s.phase ≠ .idle) :
    s.rchk lw lr = s.complete .illegalStateTransition none := if_pos h

/-- RCHK in Idle with a length that is not a plane's (R183). -/
theorem State.rchk_otherLength (s : State) (lw lr : Word) (hp : s.phase = .idle)
    (hl : lw.toNat ≠ Config.planeBytes ∨ lr.toNat ≠ Config.planeBytes) :
    s.rchk lw lr = s.complete .bufferSizeMismatch none :=
  (if_neg (not_not_intro hp)).trans (if_pos hl)

/-- RCHK in Idle with both lengths a plane's (R183). -/
theorem State.rchk_passed (s : State) (lw lr : Word) (hp : s.phase = .idle) (hw : lw.toNat = Config.planeBytes)
    (hr : lr.toNat = Config.planeBytes) : s.rchk lw lr = { s with pix := 0#16, upc := ⟨s.upc.seq, s.upc.k + 1⟩ } :=
  (if_neg (not_not_intro hp)).trans (if_neg (not_or_intro (not_not_intro hw) (not_not_intro hr)))

/-- Settles O21: RENDER at k = 0 is RCHK, in its three outcomes. -/
theorem renderChecksPhaseThenLengths : Obligations.RenderChecksPhaseThenLengths := by
  intro s lw lr hu
  have hrow : operationRow s.cfg s.upc (.render lw lr) = some (.rchk lw lr) := by rw [hu]; rfl
  rw [exec_operationRow hrow, State.micro]
  refine ⟨fun hp => ?phase, fun hp hl => ?length, fun hp hw hr => ?passed⟩
  case phase => rw [s.rchk_otherPhase lw lr hp]; rfl
  case length => rw [s.rchk_otherLength lw lr hp hl]; rfl
  case passed => rw [s.rchk_passed lw lr hp hw hr, hu]

/-- SCHK outside Idle (R187). -/
theorem State.schk_otherPhase (s : State) (h : s.phase ≠ .idle) :
    s.schk = s.complete .illegalStateTransition none := if_pos h

/-- SCHK in Idle (R187). -/
theorem State.schk_passed (s : State) (h : s.phase = .idle) :
    s.schk = { s with upc := ⟨s.upc.seq, s.upc.k + 1⟩ } := if_neg (not_not_intro h)

/-- Settles O22: SLEEP at k = 0 is SCHK, in its two outcomes. -/
theorem sleepChecksPhase : Obligations.SleepChecksPhase := by
  intro s hu
  have hrow : operationRow s.cfg s.upc .sleep = some .schk := by rw [hu]; rfl
  rw [exec_operationRow hrow, State.micro]
  refine ⟨fun hp => ?phase, fun hp => ?passed⟩
  case phase => rw [s.schk_otherPhase hp]; rfl
  case passed => rw [s.schk_passed hp, hu]

end Sys2Proof.Machine
end

section
/-! ## The events of whole operations (10_state.md R48; 41_controller.md R199, R201, R202) -/

namespace Sys2Proof.Machine

/-! ### On the wire -/

theorem wire_append (l r : List Event) : wire (l ++ r) = wire l ++ wire r := List.filterMap_append

/-- What a busy-wait puts on the wire is its polls' commands, without a poll delay or a sample (R196, R199). -/
theorem wire_waitEvents (c : Config) (n : Nat) : wire (waitEvents c n) = List.replicate (n + 1) (.cmd 0x71#8) := by
  induction n with
  | zero => rfl
  | succ n ih =>
    have hdelay : wire (pollDelayEvents c) = [] := by
      unfold pollDelayEvents
      split_ifs <;> rfl
    rw [waitEvents, wire_append, wire_append, hdelay, ih, List.replicate_succ]
    rfl

/-- Settles O38: `wire_waitEvents` names nothing of the configuration. -/
theorem pollDelayIsNotOnTheWire : Obligations.PollDelayIsNotOnTheWire := fun c d n =>
  ⟨(wire_waitEvents c n).trans (wire_waitEvents d n).symm, wire_waitEvents c n⟩

theorem leadingData_append (l r : List WireByte) (h : leadingData r = []) :
    leadingData (l ++ r) = leadingData l := by
  induction l with
  | nil => exact h
  | cons w l ih =>
    cases w with
    | cmd b => rfl
    | data b => exact congrArg (b :: ·) ih

/-- Where the second part begins with a command the exchanges are cut (R48). -/
theorem cutExchanges_append (l r : List WireByte) (h : leadingData r = []) :
    cutExchanges (l ++ r) = cutExchanges l ++ cutExchanges r := by
  induction l with
  | nil => rfl
  | cons w l ih =>
    cases w with
    | cmd b => simp only [List.cons_append, cutExchanges, leadingData_append l r h, ih]
    | data b => exact ih

theorem leadingData_replicate_cmd (n : Nat) (b : Byte) : leadingData (List.replicate n (.cmd b)) = [] := by
  cases n <;> rfl

/-- Commands without data are exchanges without data. -/
theorem cutExchanges_replicate_cmd (n : Nat) (b : Byte) :
    cutExchanges (List.replicate n (.cmd b)) = List.replicate n (b, []) := by
  induction n with
  | zero => rfl
  | succ n ih => rw [List.replicate_succ, List.replicate_succ, cutExchanges, leadingData_replicate_cmd, ih]

/-- The exchanges of an INIT (R201). -/
theorem exchanges_initEvents (c : Config) (n : Nat) : exchanges (initEvents c n) =
    [(0x01#8, [0x07#8, 0x07#8, 0x3F#8, 0x3F#8]), (0x04#8, [])] ++ List.replicate (n + 1) (0x71#8, []) ++
    [(0x00#8, [0x0F#8]), (0x15#8, [0x00#8]), (0x50#8, [0x11#8, 0x07#8]), (0x60#8, [0x22#8])] := by
  simp only [initEvents, List.append_assoc (_ ++ waitEvents c n)]
  rw [exchanges, wire_append, wire_append, wire_waitEvents, cutExchanges_append, cutExchanges_append,
    cutExchanges_replicate_cmd] <;> rfl

/-! ### Counted -/

theorem commandsOf_append (l r : List Event) : commandsOf (l ++ r) = commandsOf l ++ commandsOf r :=
  List.filterMap_append

/-- An exchange has one command, whatever its data (R108). -/
theorem commandsOf_sentEvents (b : Byte) (bytes : List Byte) : commandsOf (sentEvents b bytes) = [b] := by
  have hdata : commandsOf (bytes.map fun d => .data d .ok) = [] := by
    rw [commandsOf, List.filterMap_map]
    exact List.filterMap_eq_nil_iff.2 fun _ _ => rfl
  exact congrArg (b :: ·) hdata

theorem length_sentEvents (b : Byte) (bytes : List Byte) : (sentEvents b bytes).length = bytes.length + 1 := by
  rw [sentEvents, List.length_cons, List.length_map]

/-- A busy-wait has a command for each of its samples (R196). -/
theorem length_commandsOf_waitEvents (c : Config) (n : Nat) : (commandsOf (waitEvents c n)).length = n + 1 := by
  induction n with
  | zero => rfl
  | succ n ih =>
    have hdelay : commandsOf (pollDelayEvents c) = [] := by
      unfold pollDelayEvents
      split_ifs <;> rfl
    rw [waitEvents, commandsOf_append, commandsOf_append, hdelay, List.length_append, ih, Nat.add_comm]
    rfl

/-- Without a poll delay a busy-wait has two events for each of its samples (R196, R199). -/
theorem length_waitEvents (c : Config) (n : Nat) (h : c.pollDelayMs = 0) : (waitEvents c n).length = 2 * (n + 1) := by
  induction n with
  | zero => rfl
  | succ n ih =>
    have hdelay : pollDelayEvents c = [] := by simp only [pollDelayEvents, h, Nat.lt_irrefl, if_false]
    rw [waitEvents, hdelay, List.append_nil, List.length_append, ih, Nat.mul_succ 2 (n + 1), Nat.add_comm]
    rfl

theorem length_planeBytesOf (s : State) (p : Plane) : (s.planeBytesOf p).length = 48000 := by
  rw [State.planeBytesOf, List.length_map, List.length_range, Config.planeBytes]

/-- Settles O37: the counts of the parts added up. -/
theorem eventCounts : Obligations.EventCounts := by
  intro s n h
  have hwait := length_waitEvents s.cfg n h
  have hcmds := length_commandsOf_waitEvents s.cfg n
  unfold initEvents renderEvents sleepEvents
  refine ⟨?initEvents, ?renderEvents, ?sleepEvents, ?initCommands, ?renderCommands, ?sleepCommands⟩
  case initEvents | renderEvents | sleepEvents =>
    simp only [List.length_append, length_sentEvents, length_planeBytesOf, hwait, List.length_cons, List.length_nil]
    omega
  case initCommands | renderCommands | sleepCommands =>
    simp only [commandsOf_append, commandsOf_sentEvents, List.length_append, hcmds, List.length_cons, List.length_nil]
    simp only [commandsOf, List.filterMap_cons, List.filterMap_nil, List.length_nil]
    omega

end Sys2Proof.Machine
end

section
/-! ## The edges of the phase register (10_state.md R39; 41_controller.md R171) -/

namespace Sys2Proof.Machine

variable {s : State}

/-! ### What a micro-operation does to the phase -/

/-- The rows that call a collaborator, which may fail (R174). -/
def MicroOp.calls : MicroOp → Prop
  | .wl _ _ | .cm _ | .dt _ | .dp _ | .wi => True
  | _ => False

/-- From `s` to `t` the phase stays, or INIT has aborted (R268). -/
def PhaseKeptOrAborted (s t : State) : Prop :=
  t.phase = s.phase ∨ s.upc.seq = .init ∧ t.phase = .resetting ∧ t.result = .transportError

theorem State.abort_phase (s : State) (e : Terr) : PhaseKeptOrAborted s (s.abort e) := by
  rw [State.abort_eq]
  by_cases hi : s.upc.seq = .init
  · exact .inr ⟨hi, if_pos hi, rfl⟩
  · exact .inl (if_neg hi)

/-- A call whose answer is used without the phase and the micro-sequencer being written (R174). -/
theorem State.afterCall_phase (s : State) (r : Answer) (goOn onFail : State → State)
    (hok : (goOn s).phase = s.phase) (hfail : (onFail s).phase = s.phase ∧ (onFail s).upc = s.upc) :
    PhaseKeptOrAborted s (s.afterCall r goOn onFail) := by
  obtain ⟨hph, hu⟩ := hfail
  cases r with
  | ok => exact .inl hok
  | fail e =>
    have h := (onFail s).abort_phase e
    rwa [PhaseKeptOrAborted, hph, hu] at h

theorem State.commandSent_phase (s : State) (b : Byte) : (s.commandSent b).phase = s.phase := by
  obtain h | h | h := s.commandSent_cases b <;> rw [h]
  rfl

theorem State.nextByte_phase (s : State) : s.nextByte.phase = s.phase := by
  rw [State.nextByte_eq]
  split_ifs <;> rfl

theorem State.sampled_phase (s : State) (v : Level) : (s.sampled v).phase = s.phase := by
  rw [State.sampled_eq]
  split_ifs <;> rfl

theorem State.cm_phase (s : State) (b : Byte) : PhaseKeptOrAborted s (s.cm b) :=
  State.afterCall_phase _ _ _ _ (State.commandSent_phase _ b) ⟨rfl, rfl⟩

theorem State.wi_phase (s : State) : PhaseKeptOrAborted s s.wi := by
  unfold State.wi
  split
  next => exact s.cm_phase _
  next =>
    cases h : s.nextAnswer with
    | ok => rw [s.wiSample_ok h]; exact .inl (State.sampled_phase _ _)
    | fail e => rw [s.wiSample_fail e h]; exact State.abort_phase _ e
  next => exact .inl rfl

theorem State.rchk_phase (s : State) (lw lr : Word) : (s.rchk lw lr).phase = s.phase := by
  unfold State.rchk
  split_ifs <;> rfl

theorem State.schk_phase (s : State) : s.schk.phase = s.phase := by
  unfold State.schk
  split_ifs <;> rfl

/-- A micro-operation is a PH and writes its phase, or calls and may abort INIT, or leaves the phase (R39). -/
theorem State.micro_phase (s : State) (m : MicroOp) :
    (∃ p, m = .ph p ∧ (s.micro m).phase = p) ∨ (m.calls ∧ PhaseKeptOrAborted s (s.micro m)) ∨
    (s.micro m).phase = s.phase := by
  cases m with
  | ph p => exact .inl ⟨p, rfl, rfl⟩
  | wl l v => exact .inr (.inl ⟨trivial, State.afterCall_phase _ _ _ _ (by simp) (by simp)⟩)
  | cm b => exact .inr (.inl ⟨trivial, s.cm_phase b⟩)
  | dt b => exact .inr (.inl ⟨trivial, State.afterCall_phase _ _ _ _ rfl ⟨rfl, rfl⟩⟩)
  | dp p => exact .inr (.inl ⟨trivial, State.afterCall_phase _ _ _ _ (State.nextByte_phase _) ⟨rfl, rfl⟩⟩)
  | wi => exact .inr (.inl ⟨trivial, s.wi_phase⟩)
  | rchk lw lr => exact .inr (.inr (s.rchk_phase lw lr))
  | schk => exact .inr (.inr s.schk_phase)
  | echk => exact .inr (.inr (congrArg State.phase s.echk_frame :))
  | egrp low high => exact .inr (.inr (congrArg State.phase (s.egrp_frame low high) :))
  | dl | fin | efin => exact .inr (.inr rfl)

/-! ### The rows that write it -/

/-- The PH rows of the listings (R178, R182, R186). -/
def phaseRows : List (Upc × Phase) :=
  [(⟨.init, 0⟩, .resetting), (⟨.init, 5⟩, .initializing), (⟨.init, 22⟩, .idle), (⟨.render, 1⟩, .transmitting),
   (⟨.render, 6⟩, .refreshing), (⟨.render, 10⟩, .idle), (⟨.sleep, 5⟩, .sleeping)]

/-- A listing's PH rows are among `phaseRows`. -/
def phaseRowsOf (seq : Seq) (rows : List MicroOp) : Prop :=
  ∀ r ∈ rows.zipIdx, ∀ p, r.1 = .ph p → (⟨seq, r.2⟩, p) ∈ phaseRows

theorem State.listing_phaseRows (s : State) : phaseRowsOf s.upc.seq s.listing := by
  unfold State.listing
  split <;> simp [phaseRowsOf, encListing, initListing, renderListing, sleepListing, phaseRows, *]

theorem State.row_ph (p : Phase) (h : s.row = some (.ph p)) : (s.upc, p) ∈ phaseRows :=
  s.listing_phaseRows (.ph p, s.upc.k) (List.mem_zipIdx_iff_getElem?.mpr h) p rfl

/-- A row that calls is followed by one that goes with the same phase (R178, R182, R186). -/
theorem State.row_calls (m : MicroOp) (h : s.row = some m) (hc : m.calls) : s.upc.goesOn (phaseAt s.upc) := by
  have hfits := s.row_fits m h
  cases m with
  | wl l v => exact hfits.2
  | cm | dt | dp | wi => exact hfits
  | _ => exact hc.elim

/-- INIT calls in Resetting and Initializing only (R178). -/
theorem phaseAt_init_of_goesOn (u : Upc) (hi : u.seq = .init) (h : u.goesOn (phaseAt u)) :
    phaseAt u = some .resetting ∨ phaseAt u = some .initializing := by
  obtain ⟨q, k⟩ := u
  obtain rfl : q = .init := hi
  obtain ⟨-, hk, hnext⟩ := h
  match k, hk, hnext with
  | 0, _, hnext => cases hnext
  | k + 1, hk, _ =>
    have hk : k + 1 ≤ 22 := Nat.le_of_lt_succ (Nat.lt_of_succ_lt_succ hk)
    simp only [phaseAt, hk, if_true]
    split_ifs <;> simp

/-- A call that changes the phase of a legal state aborts an INIT in Initializing (R171, R268). -/
theorem State.Legal.aborted_from (h : s.Legal) (m : MicroOp) (hrow : s.row = some m) (hc : m.calls)
    (hi : s.upc.seq = .init) (hne : s.phase ≠ .resetting) : s.phase = .initializing := by
  obtain hp | hp := phaseAt_init_of_goesOn s.upc hi (State.row_calls m hrow hc)
  · exact absurd ((s.phaseLegal_of_some _ hp).1 h.phaseLegal) hne
  · exact (s.phaseLegal_of_some _ hp).1 h.phaseLegal

/-- No request of the host but block reset writes the phase (R39). -/
theorem State.hostStep_phase (s : State) (r : HostReq) :
    (s.hostStep r).phase = s.phase ∨ r = .blockReset ∧ (s.hostStep r).phase = .poweredOff := by
  cases r with
  | regWrite idx v =>
    left
    obtain ⟨-, he⟩ | ⟨op, a0, a1, he⟩ := s.regWrite_cases idx v <;> simp only [State.hostStep, he, State.start_phase]
  | planeWrite p i v =>
    left
    obtain ⟨rs, n, he⟩ := s.hostPlaneWrite_writes p i v
    simp only [State.hostStep, he, State.setPlaneByte_phase]
  | planeRead p i =>
    left
    obtain ⟨v, n, he⟩ := s.hostPlaneRead_reads p i
    simp only [State.hostStep, he]
  | present img =>
    left
    obtain ⟨d, n, he⟩ := s.present_presents img
    simp only [State.hostStep, he]
  | blockReset => exact .inr ⟨rfl, rfl⟩
  | block | regRead | awaitIdle | skipUnlessOk => exact .inl rfl

/-- Settles O43: by `step_legal_cases` a change is block reset's or a row's; a row's is a PH row's, whose edge ends what
the phase goes with there, or an abort of INIT. -/
theorem phaseChangesOnlyAlongEdges : Obligations.PhaseChangesOnlyAlongEdges := by
  intro s t h hst hne
  obtain ⟨r, rest, hin, -, he⟩ | ⟨l, he, -⟩ | ⟨l, he, -, -⟩ | ⟨l, m, he, -, hrow⟩ := step_legal_cases s h <;>
    obtain rfl := Host.Outcome.next.inj (he.symm.trans hst)
  · obtain hkept | ⟨rfl, hoff⟩ := State.hostStep_phase { s with inputs := rest } r
    · exact absurd hkept hne
    · exact .inl ⟨hoff, rest, hin⟩
  · exact absurd rfl hne
  · exact absurd rfl hne
  · obtain ⟨p, rfl, hp⟩ | ⟨hc, hkept | ⟨hi, hp, hres⟩⟩ | hkept := State.micro_phase { s with inputs := l } m
    · have hmem := s.row_ph p hrow
      have hphase : ∀ q, phaseAt s.upc = some q → s.phase = q := fun q hq => (s.phaseLegal_of_some q hq).1 h.phaseLegal
      simp only [phaseRows, List.mem_cons, List.not_mem_nil, or_false, Prod.mk.injEq] at hmem
      obtain ⟨hu, rfl⟩ | ⟨hu, rfl⟩ | ⟨hu, rfl⟩ | ⟨hu, rfl⟩ | ⟨hu, rfl⟩ | ⟨hu, rfl⟩ | ⟨hu, rfl⟩ := hmem
      · exact .inr (.inl ⟨hp, hu⟩)
      · exact .inr (.inr (.inl ⟨hphase _ (by rw [hu]; rfl), hp, hu⟩))
      · exact .inr (.inr (.inr (.inl ⟨hphase _ (by rw [hu]; rfl), hp, hu⟩)))
      · exact .inr (.inr (.inr (.inr (.inr (.inl ⟨hphase _ (by rw [hu]; rfl), hp, hu⟩)))))
      · exact .inr (.inr (.inr (.inr (.inr (.inr (.inl ⟨hphase _ (by rw [hu]; rfl), hp, hu⟩))))))
      · exact .inr (.inr (.inr (.inr (.inr (.inr (.inr (.inl ⟨hphase _ (by rw [hu]; rfl), hp, hu⟩)))))))
      · exact .inr (.inr (.inr (.inr (.inr (.inr (.inr (.inr ⟨hphase _ (by rw [hu]; rfl), hp, hu⟩)))))))
    · exact absurd hkept hne
    · have hfrom := h.aborted_from m hrow hc hi fun hr => hne (hp.trans hr.symm)
      exact .inr (.inr (.inr (.inr (.inl ⟨hfrom, hp, hi, hres⟩))))
    · exact absurd hkept hne

end Sys2Proof.Machine
end

section
/-! ## Whole controller operations (41_controller.md R178, R182, R186, R196 to R198, R201) -/

namespace Sys2Proof.Machine

variable {s t : State}

/-- The block runs alone, in the listing dispatch chose, and not inside a poll (R36, R40, R170). -/
def State.runsAlone (s : State) : Prop := s.alone ∧ s.run = true ∧ s.upc.seq = dispatch s.lOp ∧ s.wst = .cmd

/-- PanelEventuallyIdle is about the levels to come and the level that is busy (R197). -/
theorem State.busyFor.congr {n : Nat} (h : s.busyFor n) (h1 : t.samples = s.samples) (h2 : t.sampleCtr = s.sampleCtr)
    (h3 : t.cfg = s.cfg) : t.busyFor n := by
  have hs : ∀ j, t.sampleAt j = s.sampleAt j := fun j => by rw [State.sampleAt, State.sampleAt, h1, h2]
  simpa only [State.busyFor, hs, h3] using h

/-- TransportReliable once `k` of the calls are made (R266). -/
theorem State.reliableFor.drop {k n : Nat} (h : s.reliableFor (k + n)) (h1 : t.answers = s.answers.drop k)
    (h2 : t.answerCtr = s.answerCtr + k) : t.reliableFor n := fun j hj => by
  rw [answerAt_drop s t k j h1 h2]
  exact h _ (Nat.add_lt_add_left hj k)

/-- Runs composed. -/
theorem core_run_trans {a b : Nat} {u : State} (h : core.run a s = .next t) (h' : core.run b t = .next u) :
    core.run (a + b) s = .next u :=
  (core_run_add s a b t h).trans h'

/-! ### A panel that stays busy -/

/-- What a busy poll and its delay leave (`busy_poll_run`). -/
def State.busyPolled (s : State) : State :=
  { s with
    answers := s.answers.drop 2, answerCtr := s.answerCtr + 2
    samples := s.samples.drop 1, sampleCtr := s.sampleCtr + 1
    trace := s.trace ++ (pollEvents s.cfg s.cfg.busyActive ++ pollDelayEvents s.cfg)
    lvlDc := .known .low, bsample := .known s.cfg.busyActive }

/-- `n` busy polls, each with its delay if there is one, move nothing of the block but BSAMPLE and DC (R196, R198, R199). -/
theorem busy_run (n : Nat) (h : s.runsAlone) (hrow : s.row = some .wi) (hok : s.reliableFor (2 * n))
    (hb : ∀ j, j < n → s.sampleAt j = s.cfg.busyActive) :
    ∃ t : State, core.run (2 * n + if 0 < s.cfg.pollDelayMs then n else 0) s = .next t ∧ t = { s with
      answers := t.answers, answerCtr := t.answerCtr, samples := t.samples, sampleCtr := t.sampleCtr
      lvlDc := t.lvlDc, bsample := t.bsample
      trace := s.trace ++
        (List.replicate n (pollEvents s.cfg s.cfg.busyActive ++ pollDelayEvents s.cfg)).flatten } := by
  induction n generalizing s with
  | zero => exact ⟨s, by simp [Host.Core.run], by simp⟩
  | succ n ih =>
    obtain ⟨ha, hr, hd, hw⟩ := id h
    have hpoll : core.run _ s = .next s.busyPolled :=
      busy_poll_run s ha hr hd hrow hw (hok 0 (by omega)) (hok 1 (by omega)) (hb 0 (by omega))
    obtain ⟨t, hrun, ht⟩ := ih (s := s.busyPolled) h hrow
      (State.reliableFor.drop (k := 2) (fun j hj => hok j (by omega)) rfl rfl)
      (fun j hj => (sampleAt_drop s s.busyPolled 1 j rfl rfl).trans (hb _ (by omega)))
    have hsteps : 2 * (n + 1) + (if 0 < s.cfg.pollDelayMs then n + 1 else 0) =
        (2 + if 0 < s.cfg.pollDelayMs then 1 else 0) + (2 * n + if 0 < s.cfg.pollDelayMs then n else 0) := by
      split_ifs <;> omega
    refine ⟨t, ?_, ?_⟩
    · rw [hsteps]
      exact core_run_trans hpoll hrun
    · rw [List.replicate_succ, List.flatten_cons, ← List.append_assoc]
      exact ht

/-- Settles O54: a legal state at a busy-wait is running alone once nothing is queued, and `busy_run` polls. -/
theorem busyPanelHangsTheBlock : Obligations.BusyPanelHangsTheBlock := by
  intro s n h hin hrow hw hok hb
  obtain ⟨hcf, hbench, ⟨hs1, hs2, -⟩, -⟩ := h
  have hseq : s.upc.seq ≠ .none := fun hq => by simp [State.row, State.listing, hq] at hrow
  have hr : s.run = true := hs1.2 hseq
  obtain ⟨t, hrun, ht⟩ := busy_run n ⟨⟨hcf, hbench, hin⟩, hr, hs2 hr, hw⟩ hrow hok hb
  refine ⟨t, hrun, ?_⟩
  rw [ht]
  exact ⟨hr, rfl, hw, rfl, rfl, rfl, rfl, rfl⟩

/-! ### The rows of a listing, with every call answering ok -/

/-- The rows that emit one event and go to the next row, when a call they make answers ok (R190 to R193). -/
def MicroOp.plain : MicroOp → Prop
  | .ph _ | .dl _ | .cm _ | .dt _ => True
  | .wl l _ => l = .rst
  | _ => False

/-- The calls a plain row makes. -/
def MicroOp.draws : MicroOp → Nat
  | .wl _ _ | .cm _ | .dt _ => 1
  | _ => 0

/-- The events of a plain row (R190 to R193). -/
def MicroOp.events (c : Config) : MicroOp → List Event
  | .ph p => [.phase p]
  | .wl l v => [.line (c.lineId l) v .ok]
  | .dl ms => [.delay ms]
  | .cm b => [.cmd b .ok]
  | .dt b => [.data b .ok]
  | _ => []

/-- PHASE after a plain row (R190). -/
def MicroOp.phaseAfter (p : Phase) : MicroOp → Phase
  | .ph q => q
  | _ => p

/-- LVL[RST] after a plain row (R191). -/
def MicroOp.rstAfter (v : Lvl) : MicroOp → Lvl
  | .wl _ w => .known w
  | _ => v

/-- LVL[DC] after a plain row (R82). -/
def MicroOp.dcAfter (v : Lvl) : MicroOp → Lvl
  | .cm _ => .known .low
  | .dt _ => .known .high
  | _ => v

/-- The calls some plain rows make. -/
def drawsOf (rows : List MicroOp) : Nat := (rows.map MicroOp.draws).sum

/-- What some plain rows leave, when every call answers ok. -/
def State.afterRows (s : State) (rows : List MicroOp) : State :=
  { s with
    answers := s.answers.drop (drawsOf rows), answerCtr := s.answerCtr + drawsOf rows
    trace := s.trace ++ rows.flatMap (MicroOp.events s.cfg)
    phase := rows.foldl MicroOp.phaseAfter s.phase
    lvlRst := rows.foldl MicroOp.rstAfter s.lvlRst, lvlDc := rows.foldl MicroOp.dcAfter s.lvlDc
    upc := ⟨s.upc.seq, s.upc.k + rows.length⟩ }

theorem State.afterRows_nil (s : State) : s.afterRows [] = s := by
  simp [State.afterRows, drawsOf]

theorem State.afterRows_cons (s : State) (m : MicroOp) (rows : List MicroOp) :
    (s.afterRows [m]).afterRows rows = s.afterRows (m :: rows) := by
  simp [State.afterRows, drawsOf, Nat.add_assoc, Nat.add_comm 1]

/-- A plain row does what it says. -/
theorem State.micro_plain (s : State) (m : MicroOp) (hp : m.plain) (hrow : s.row = some m)
    (hok : s.reliableFor m.draws) : s.micro m = s.afterRows [m] := by
  have hans : 0 < m.draws → s.nextAnswer = .ok := fun h => s.nextAnswer_eq.trans (hok 0 h)
  cases m with
  | ph p => rfl
  | dl ms => rfl
  | wl l v =>
    obtain rfl : l = .rst := hp
    rw [State.micro, s.wl_rst_ok v (hans Nat.one_pos), ← List.drop_one]
    rfl
  | cm b =>
    rw [State.micro, s.cm_ok b (hans Nat.one_pos), ← List.drop_one]
    exact State.commandSent_row _ b hrow
  | dt b =>
    rw [State.micro, s.dt_ok b (hans Nat.one_pos), ← List.drop_one]
    rfl
  | _ => exact hp.elim

/-- The next rows of the listing (R40). -/
def State.ahead (s : State) (rows : List MicroOp) : Prop := rows <+: s.listing.drop s.upc.k

theorem State.ahead.row {m : MicroOp} {rows : List MicroOp} (h : s.ahead (m :: rows)) : s.row = some m := by
  obtain ⟨post, hpost⟩ := h
  have h0 : (s.listing.drop s.upc.k)[0]? = some m := by rw [← hpost]; rfl
  rwa [List.getElem?_drop] at h0

theorem State.ahead.left {rows more : List MicroOp} (h : s.ahead (rows ++ more)) : s.ahead rows :=
  (List.prefix_append rows more).trans h

/-- Some rows on, the rows after them are next. -/
theorem State.ahead.past {rows more : List MicroOp} (h : s.ahead (rows ++ more)) (hl : t.listing = s.listing)
    (hk : t.upc.k = s.upc.k + rows.length) : t.ahead more := by
  obtain ⟨post, hpost⟩ := h
  refine ⟨post, ?_⟩
  rw [hl, hk, ← List.drop_drop, ← hpost, List.append_assoc, List.drop_left]

/-- A run through plain rows (R190 to R193). -/
theorem rows_run (rows : List MicroOp) (h : s.runsAlone) (hl : s.ahead rows) (hp : ∀ m ∈ rows, m.plain)
    (hok : s.reliableFor (drawsOf rows)) : core.run rows.length s = .next (s.afterRows rows) := by
  induction rows generalizing s with
  | nil => rw [State.afterRows_nil]; rfl
  | cons m rows ih =>
    obtain ⟨ha, hr, hd, -⟩ := id h
    obtain ⟨hm, hrest⟩ := List.forall_mem_cons.1 hp
    have hok' : s.reliableFor (drawsOf [m] + drawsOf rows) := by simpa [drawsOf] using hok
    have hstep := step_alone_row s m ha hr hd hl.row
    rw [s.micro_plain m hm hl.row fun j hj => hok' j (by simp [drawsOf]; omega)] at hstep
    have hrun := ih (s := s.afterRows [m]) h (State.ahead.past (rows := [m]) hl rfl rfl) hrest (hok'.drop rfl rfl)
    rw [State.afterRows_cons] at hrun
    exact (core_run_step s rows.length _ hstep).trans hrun

/-! ### The busy-wait and the end of an operation -/

/-- What a busy-wait with `n` busy samples leaves (`wait_run`). -/
def State.waited (s : State) (n : Nat) : State :=
  { s with
    answers := s.answers.drop (2 * (n + 1)), answerCtr := s.answerCtr + 2 * (n + 1)
    samples := s.samples.drop (n + 1), sampleCtr := s.sampleCtr + (n + 1)
    trace := s.trace ++ waitEvents s.cfg n, lvlDc := .known .low, bsample := .known (s.sampleAt n)
    upc := ⟨s.upc.seq, s.upc.k + 1⟩ }

/-- What plain rows, a busy-wait with `n` busy samples, plain rows and FIN leave. -/
def State.ended (s : State) (before : List MicroOp) (n : Nat) (after : List MicroOp) : State :=
  (((s.afterRows before).waited n).afterRows after).fin

section ended

variable (s : State) (before : List MicroOp) (n : Nat) (after : List MicroOp)

@[simp] theorem State.ended_result : (s.ended before n after).result = .ok := rfl
@[simp] theorem State.ended_resErr : (s.ended before n after).resErr = none := rfl
@[simp] theorem State.ended_run : (s.ended before n after).run = false := rfl
@[simp] theorem State.ended_resValid : (s.ended before n after).resValid = true := rfl
@[simp] theorem State.ended_upc : (s.ended before n after).upc = ⟨.none, 0⟩ := rfl
@[simp] theorem State.ended_pix : (s.ended before n after).pix = s.pix := rfl
@[simp] theorem State.ended_bsample : (s.ended before n after).bsample = .known (s.sampleAt n) := rfl
@[simp] theorem State.ended_pw : (s.ended before n after).pw = s.pw := rfl
@[simp] theorem State.ended_pr : (s.ended before n after).pr = s.pr := rfl
@[simp] theorem State.ended_phase : (s.ended before n after).phase =
    after.foldl MicroOp.phaseAfter (before.foldl MicroOp.phaseAfter s.phase) := rfl
@[simp] theorem State.ended_lvlRst : (s.ended before n after).lvlRst =
    after.foldl MicroOp.rstAfter (before.foldl MicroOp.rstAfter s.lvlRst) := rfl
@[simp] theorem State.ended_lvlDc : (s.ended before n after).lvlDc = after.foldl MicroOp.dcAfter (.known .low) := rfl

theorem State.ended_trace : (s.ended before n after).trace = s.trace ++
    (before.flatMap (MicroOp.events s.cfg) ++ waitEvents s.cfg n ++ after.flatMap (MicroOp.events s.cfg)) := by
  simp only [← List.append_assoc]
  rfl

end ended

/-- INIT from its first row, and RENDER and SLEEP from some row on, are plain rows, a busy-wait, plain rows and FIN (R178,
R182, R186). -/
theorem ending_run (before : List MicroOp) (n : Nat) (after : List MicroOp) (h : s.runsAlone)
    (hl : s.ahead (before ++ .wi :: (after ++ [.fin]))) (hbefore : ∀ m ∈ before, m.plain)
    (hafter : ∀ m ∈ after, m.plain) (hok : s.reliableFor (drawsOf before + (2 * (n + 1) + drawsOf after)))
    (hb : s.busyFor n) :
    core.run (before.length + (waitSteps s.cfg n + (after.length + 1))) s = .next (s.ended before n after) := by
  obtain ⟨ha, hr, hd, hw⟩ := id h
  have hok1 : (s.afterRows before).reliableFor (2 * (n + 1) + drawsOf after) := hok.drop rfl rfl
  have hl1 : (s.afterRows before).ahead (.wi :: (after ++ [.fin])) := hl.past rfl rfl
  have hl2 : ((s.afterRows before).waited n).ahead (after ++ [.fin]) := State.ahead.past (rows := [.wi]) hl1 rfl rfl
  have hl3 : (((s.afterRows before).waited n).afterRows after).ahead [.fin] := hl2.past rfl rfl
  have hbefore_run := rows_run before h hl.left hbefore fun j hj => hok j (by omega)
  have hwait_run : core.run (waitSteps s.cfg n) (s.afterRows before) = .next ((s.afterRows before).waited n) :=
    wait_run (s.afterRows before) n ha hr hd hl1.row hw (fun j hj => hok1 j (by omega)) hb
  have hafter_run := rows_run after (s := (s.afterRows before).waited n) h hl2.left hafter (hok1.drop rfl rfl)
  have hfin := step_alone_row (((s.afterRows before).waited n).afterRows after) .fin ha hr hd hl3.row
  exact core_run_trans hbefore_run (core_run_trans hwait_run (core_run_trans hafter_run (core_run_step _ 0 _ hfin)))

/-! ### INIT -/

/-- INIT's rows before its busy-wait (R178). -/
def initOpening (c : Config) : List MicroOp := (initListing c).take 12

/-- INIT's rows between its busy-wait and FIN (R178). -/
def initClosing (c : Config) : List MicroOp := ((initListing c).drop 13).take 10

/-- The events of an INIT are those of its rows (R178). -/
theorem initEvents_eq (c : Config) (n : Nat) : initEvents c n =
    (initOpening c).flatMap (MicroOp.events c) ++ waitEvents c n ++ (initClosing c).flatMap (MicroOp.events c) := by
  simp only [initEvents, List.append_assoc (_ ++ waitEvents c n)]
  rfl

/-- Settles O50: INIT's rows are the opening, the busy-wait, the closing and FIN. -/
theorem initRunEmitsItsListing : Obligations.InitRunEmitsItsListing := by
  intro s n ha hr hop hu hw hok hb
  have h : s.runsAlone := ⟨ha, hr, by rw [hu, hop]; rfl, hw⟩
  have hl : s.ahead (initOpening s.cfg ++ .wi :: (initClosing s.cfg ++ [.fin])) := by
    rw [State.ahead, State.listing, hu]
    exact List.prefix_rfl
  have hdraws : drawsOf (initOpening s.cfg) = 8 ∧ drawsOf (initClosing s.cfg) = 9 := ⟨rfl, rfl⟩
  have hrun := ending_run (initOpening s.cfg) n (initClosing s.cfg) h hl
    (by simp [initOpening, initListing, MicroOp.plain]) (by simp [initClosing, initListing, MicroOp.plain])
    (fun j hj => hok j (by omega)) hb
  refine ⟨s.ended (initOpening s.cfg) n (initClosing s.cfg), ?run, ?trace, exchanges_initEvents s.cfg n, ?_⟩
  case run =>
    have hsteps : 23 + waitSteps s.cfg n = 12 + (waitSteps s.cfg n + (10 + 1)) := by omega
    rw [hsteps]
    exact hrun
  case trace => rw [s.ended_trace, initEvents_eq]
  simp [initClosing, initOpening, initListing, MicroOp.phaseAfter, MicroOp.rstAfter, MicroOp.dcAfter]

/-! ### SLEEP -/

/-- Settles O52: SCHK passes, and SLEEP's other rows are POWER_OFF's, the busy-wait, DEEP_SLEEP's with the phase's, FIN. -/
theorem sleepRunEmitsItsListing : Obligations.SleepRunEmitsItsListing := by
  intro s n ha hr hop hu hw hph hok hb
  have hd : s.upc.seq = dispatch s.lOp := by rw [hu, hop]; rfl
  have hrow : s.row = some .schk := by rw [State.row, State.listing, hu]; rfl
  have hcheck := step_alone_row s .schk ha hr hd hrow
  rw [State.micro, s.schk_passed hph, hu] at hcheck
  have hrun := ending_run (s := { s with upc := ⟨.sleep, 1⟩ }) [.cm 0x02#8] n [.cm 0x07#8, .dt 0xA5#8, .ph .sleeping]
    ⟨ha, hr, by rw [hop]; rfl, hw⟩ List.prefix_rfl (by simp [MicroOp.plain]) (by simp [MicroOp.plain])
    (fun j hj => hok j (by simp [drawsOf, MicroOp.draws] at hj; omega)) hb
  refine ⟨State.ended { s with upc := ⟨.sleep, 1⟩ } [.cm 0x02#8] n [.cm 0x07#8, .dt 0xA5#8, .ph .sleeping], ?run, ?trace,
    ?_⟩
  case run =>
    have hsteps : 6 + waitSteps s.cfg n = 1 + (waitSteps s.cfg n + (3 + 1)) + 1 := by omega
    rw [hsteps]
    exact (core_run_step s _ _ hcheck).trans hrun
  case trace =>
    rw [State.ended_trace, sleepEvents, List.append_assoc (_ ++ waitEvents s.cfg n)]
    rfl
  simp [MicroOp.phaseAfter, MicroOp.dcAfter]

end Sys2Proof.Machine
end

section
/-! ## A whole RENDER (41_controller.md R182, R194) -/

namespace Sys2Proof.Machine

variable {s t : State}

/-! ### A transmission -/

/-- What some plain rows and a plane transmission leave, when every call answers ok. -/
def State.transmitted (s : State) (rows : List MicroOp) (p : Plane) : State :=
  { s with
    answers := s.answers.drop (drawsOf rows + Config.planeBytes)
    answerCtr := s.answerCtr + (drawsOf rows + Config.planeBytes)
    trace := s.trace ++ (rows.flatMap (MicroOp.events s.cfg) ++ (s.planeBytesOf p).map fun b => .data b .ok)
    phase := rows.foldl MicroOp.phaseAfter s.phase
    lvlRst := rows.foldl MicroOp.rstAfter s.lvlRst, lvlDc := .known .high
    pix := 0#16, upc := ⟨s.upc.seq, s.upc.k + rows.length + 1⟩ }

section transmitted

variable (s : State) (rows : List MicroOp) (p : Plane)

@[simp] theorem State.transmitted_pix : (s.transmitted rows p).pix = 0#16 := rfl
@[simp] theorem State.transmitted_pw : (s.transmitted rows p).pw = s.pw := rfl
@[simp] theorem State.transmitted_pr : (s.transmitted rows p).pr = s.pr := rfl

/-- A transmission's events are an exchange's, after those of the rows before its command (R108, R194). -/
theorem State.transmitted_trace (b : Byte) : (s.transmitted (rows ++ [.cm b]) p).trace =
    s.trace ++ (rows.flatMap (MicroOp.events s.cfg) ++ sentEvents b (s.planeBytesOf p)) := by
  simp [State.transmitted, MicroOp.events, sentEvents]

end transmitted

theorem State.runsAlone.transmitted (h : s.runsAlone) (rows : List MicroOp) (p : Plane) :
    (s.transmitted rows p).runsAlone := h

theorem State.busyFor.transmitted {n : Nat} (h : s.busyFor n) (rows : List MicroOp) (p : Plane) :
    (s.transmitted rows p).busyFor n := h.congr rfl rfl rfl

theorem State.reliableFor.transmitted {n : Nat} (rows : List MicroOp) (p : Plane)
    (h : s.reliableFor (drawsOf rows + Config.planeBytes + n)) : (s.transmitted rows p).reliableFor n := h.drop rfl rfl

theorem State.ahead.transmitted {rows more : List MicroOp} {p : Plane} (h : s.ahead (rows ++ .dp p :: more)) :
    (s.transmitted rows p).ahead more := by
  have h1 : (s.afterRows rows).ahead (.dp p :: more) := h.past rfl rfl
  exact State.ahead.past (rows := [.dp p]) h1 rfl rfl

/-- Plain rows and the plane transmission after them, with no racing write (R194). -/
theorem transmission_run (rows more : List MicroOp) (p : Plane) (n : Nat) (h : s.runsAlone)
    (hl : s.ahead (rows ++ .dp p :: more)) (hp : ∀ m ∈ rows, m.plain) (hx : s.races = []) (h0 : s.pix = 0#16)
    (hok : s.reliableFor (drawsOf rows + Config.planeBytes + n)) :
    core.run (rows.length + Config.planeBytes) s = .next (s.transmitted rows p) := by
  obtain ⟨ha, hr, hd, -⟩ := id h
  have hok1 : (s.afterRows rows).reliableFor (Config.planeBytes + n) :=
    State.reliableFor.drop (k := drawsOf rows) (fun j hj => hok j (by omega)) rfl rfl
  have hl1 : (s.afterRows rows).ahead (.dp p :: more) := hl.past rfl rfl
  have hrows := rows_run rows h hl.left hp fun j hj => hok j (by omega)
  have hplane := plane_run (s.afterRows rows) p ha hr hd hl1.row hx (fun j hj => hok1 j (Nat.lt_add_right n hj)) h0
  refine core_run_trans hrows (hplane.trans ?_)
  rw [State.transmitted, ← List.drop_drop, ← Nat.add_assoc, ← List.append_assoc]
  rfl

/-- A plane's bytes depend on the planes alone. -/
theorem State.planeBytesOf_congr (p : Plane) (hw : t.pw = s.pw) (hr : t.pr = s.pr) :
    t.planeBytesOf p = s.planeBytesOf p :=
  congrArg (List.range Config.planeBytes).map (funext (s.planeByte_congr t hw hr p))

/-! ### The operation -/

/-- RENDER's rows before its first transmission, past RCHK, the command that opens it last (R182). -/
def whiteOpening : List MicroOp := [MicroOp.ph .transmitting] ++ [MicroOp.cm 0x10#8]

/-- RENDER's row between its transmissions (R182). -/
def redOpening : List MicroOp := [] ++ [MicroOp.cm 0x13#8]

/-- RENDER's rows between its transmissions and its busy-wait (R182). -/
def refreshRows : List MicroOp := [.ph .refreshing, .cm 0x12#8, .dl Config.tRefreshMs]

/-- RENDER's row between its busy-wait and FIN (R182). -/
def renderClosing : List MicroOp := [.ph .idle]

/-- A RENDER past RCHK (R183). -/
def State.renderChecked (s : State) : State := { s with pix := 0#16, upc := ⟨.render, 1⟩ }

/-- RENDER's rows past RCHK (R182). -/
theorem State.renderChecked_ahead (s : State) : s.renderChecked.ahead (whiteOpening ++ MicroOp.dp .pw ::
    (redOpening ++ MicroOp.dp .pr :: (refreshRows ++ MicroOp.wi :: (renderClosing ++ [MicroOp.fin])))) :=
  List.prefix_rfl

/-- A RENDER past both transmissions (R182). -/
def State.planesSent (s : State) : State := (s.renderChecked.transmitted whiteOpening .pw).transmitted redOpening .pr

/-- The events of a RENDER are those of its rows (R182). -/
theorem renderEvents_eq (s : State) (n : Nat) : renderEvents s n =
    [Event.phase .transmitting] ++ sentEvents 0x10#8 (s.planeBytesOf .pw) ++ sentEvents 0x13#8 (s.planeBytesOf .pr) ++
    (refreshRows.flatMap (MicroOp.events s.cfg) ++ waitEvents s.cfg n ++
      renderClosing.flatMap (MicroOp.events s.cfg)) := by
  unfold renderEvents
  generalize sentEvents 0x10#8 _ = white, sentEvents 0x13#8 _ = red
  simp [refreshRows, renderClosing, MicroOp.events, sentEvents]

/-- The events of a RENDER up to its refresh. -/
theorem State.planesSent_trace (s : State) : s.planesSent.trace = s.trace ++
    ([Event.phase .transmitting] ++ sentEvents 0x10#8 (s.planeBytesOf .pw) ++ sentEvents 0x13#8 (s.planeBytesOf .pr)) := by
  have hw : s.renderChecked.planeBytesOf .pw = s.planeBytesOf .pw :=
    State.planeBytesOf_congr (s := s) (t := s.renderChecked) .pw rfl rfl
  have hr : (s.renderChecked.transmitted whiteOpening .pw).planeBytesOf .pr = s.planeBytesOf .pr :=
    State.planeBytesOf_congr .pr (State.transmitted_pw _ _ _) (State.transmitted_pr _ _ _)
  rw [State.planesSent, redOpening, State.transmitted_trace, hr, whiteOpening, State.transmitted_trace, hw]
  simp only [State.renderChecked, MicroOp.events, List.flatMap_cons, List.flatMap_nil, List.append_nil, List.nil_append,
    List.append_assoc]

/-- The calls of a RENDER, rows and transmissions one by one (R182). -/
theorem State.renderChecked_reliable (n : Nat) (h : s.reliableFor (96003 + 2 * (n + 1))) :
    s.renderChecked.reliableFor (drawsOf whiteOpening + Config.planeBytes +
      (drawsOf redOpening + Config.planeBytes + (drawsOf refreshRows + (2 * (n + 1) + drawsOf renderClosing)))) := by
  intro j hj
  rw [show drawsOf whiteOpening = 1 from rfl, show drawsOf redOpening = 1 from rfl,
    show drawsOf refreshRows = 1 from rfl, show drawsOf renderClosing = 0 from rfl, Config.planeBytes] at hj
  exact h j (by omega)

/-- Settles O51: RCHK passes, both planes go out, and RENDER's other rows are the refresh's, the busy-wait, the phase's,
FIN. -/
theorem renderRunSendsBothPlanes : Obligations.RenderRunSendsBothPlanes := by
  intro s n ha hr hop hu hw hph hlw hlr hx hok hb
  have hd : s.upc.seq = dispatch s.lOp := by rw [hu, hop]; rfl
  have hrow : s.row = some (.rchk s.lArg0 s.lArg1) := by rw [State.row, State.listing, hu]; rfl
  have hcheck := step_alone_row s _ ha hr hd hrow
  rw [State.micro, s.rchk_passed _ _ hph hlw hlr, hu] at hcheck
  have h : s.renderChecked.runsAlone := ⟨ha, hr, by rw [State.renderChecked, hop]; rfl, hw⟩
  have hok1 := State.renderChecked_reliable n hok
  have hb1 : s.renderChecked.busyFor n := hb
  have hl1 := s.renderChecked_ahead
  have hwhite := transmission_run _ _ _ _ h hl1 (by simp [whiteOpening, MicroOp.plain]) hx rfl hok1
  have hred := transmission_run _ _ _ _ (h.transmitted _ _) hl1.transmitted (by simp [redOpening, MicroOp.plain]) hx rfl
    (hok1.transmitted _ _)
  have hrun := ending_run refreshRows n renderClosing ((h.transmitted _ _).transmitted _ _) hl1.transmitted.transmitted
    (by simp [refreshRows, MicroOp.plain]) (by simp [renderClosing, MicroOp.plain])
    ((hok1.transmitted _ _).transmitted _ _) ((hb1.transmitted _ _).transmitted _ _)
  refine ⟨s.planesSent.ended refreshRows n renderClosing, ?run, ?trace, ?_⟩
  case run =>
    have hsteps : 96009 + waitSteps s.cfg n = 2 + Config.planeBytes + (1 + Config.planeBytes) +
        (3 + (waitSteps s.cfg n + (1 + 1))) + 1 := by
      simp only [Config.planeBytes]
      omega
    rw [hsteps]
    exact (core_run_step s _ _ hcheck).trans (core_run_trans (core_run_trans hwhite hred) hrun)
  case trace =>
    rw [State.ended_trace, s.planesSent_trace, List.append_assoc s.trace, renderEvents_eq]
    rfl
  simp [refreshRows, renderClosing, MicroOp.phaseAfter, MicroOp.dcAfter, State.planesSent, State.renderChecked]

end Sys2Proof.Machine
end

section
/-! ## The commands a step sends (30_encoding.md R109; 42_wire_commands.md R218) -/

namespace Sys2Proof.Machine

/-- The commands a step of the micro-operation sends, or attempts to: a CM's byte, and GET_STATUS at a busy-wait's W_CMD
(R193, R196). -/
def State.commandsSentBy (s : State) : MicroOp → List Byte
  | .cm b => [b]
  | .wi => if s.wst = .cmd then [0x71#8] else []
  | .ph _ | .wl _ _ | .dl _ | .dt _ | .dp _ | .rchk _ _ | .schk | .fin | .echk | .egrp _ _ | .efin => []

/-- At a row of a listing the commands its step sends are among R218's (R109, R200). -/
theorem State.commandsSentBy_listed (s : State) (m : MicroOp) (hrow : s.row = some m) :
    ∀ b ∈ s.commandsSentBy m, b ∈ sentCommands := by
  cases m with
  | cm b => exact List.forall_mem_singleton.2 ((listing_rows s (.cm b) hrow).1 b rfl)
  | wi =>
    have hstatus : 0x71#8 ∈ sentCommands := by decide
    unfold State.commandsSentBy
    split_ifs
    exacts [List.forall_mem_singleton.2 hstatus, List.forall_mem_nil _]
  | _ => exact List.forall_mem_nil _

/-! ### The parts of a micro-operation that send none -/

/-- An abort's only event is its phase's (R268). -/
theorem State.abort_commands (s : State) (e : Terr) : commandsOf (s.abort e).trace = commandsOf s.trace := by
  have hphase : commandsOf (if s.upc.seq = .init then [.phase .resetting] else []) = [] := by
    split_ifs <;> rfl
  rw [State.abort_eq, commandsOf_append, hphase, List.append_nil]

/-- What follows a call's event sends nothing, whatever the answer (R174, R268). -/
theorem State.afterCall_commands (s : State) (r : Answer) (goOn onFail : State → State)
    (hok : (goOn s).trace = s.trace) (hfail : (onFail s).trace = s.trace) :
    commandsOf (s.afterCall r goOn onFail).trace = commandsOf s.trace := by
  cases r with
  | ok => exact congrArg commandsOf hok
  | fail e => exact ((onFail s).abort_commands e).trans (congrArg commandsOf hfail)

theorem State.commandSent_trace (s : State) (b : Byte) : (s.commandSent b).trace = s.trace := by
  obtain h | h | h := s.commandSent_cases b <;> rw [h]
  rfl

theorem State.nextByte_trace (s : State) : s.nextByte.trace = s.trace := by
  rw [State.nextByte_eq]
  split_ifs <;> rfl

theorem State.sampled_trace (s : State) (v : Level) : (s.sampled v).trace = s.trace := by
  rw [State.sampled_eq]
  split_ifs <;> rfl

theorem State.rchk_trace (s : State) (lw lr : Word) : (s.rchk lw lr).trace = s.trace := by
  unfold State.rchk
  split_ifs <;> rfl

theorem State.schk_trace (s : State) : s.schk.trace = s.trace := by
  unfold State.schk
  split_ifs <;> rfl

/-- An event that is no command. -/
theorem State.emit_commands (s : State) (ev : Event) (h : commandsOf [ev] = []) :
    commandsOf (s.emit ev).trace = commandsOf s.trace := by
  rw [State.emit_trace, commandsOf_append, h, List.append_nil]

/-! ### The micro-operations -/

theorem State.cm_commands (s : State) (b : Byte) : commandsOf (s.cm b).trace = commandsOf s.trace ++ [b] :=
  (State.afterCall_commands _ _ _ _ (State.commandSent_trace _ b) rfl).trans (commandsOf_append _ _)

theorem State.wl_commands (s : State) (l : Line) (v : Level) : commandsOf (s.wl l v).trace = commandsOf s.trace :=
  (State.afterCall_commands _ _ _ _ (State.setLvl_trace _ _ _) (State.setLvl_trace _ _ _)).trans
    (State.emit_commands _ _ rfl)

theorem State.dt_commands (s : State) (b : Byte) : commandsOf (s.dt b).trace = commandsOf s.trace :=
  (State.afterCall_commands _ _ _ _ rfl rfl).trans (State.emit_commands _ _ rfl)

theorem State.dp_commands (s : State) (p : Plane) : commandsOf (s.dp p).trace = commandsOf s.trace := by
  rw [State.dp, State.afterCall_commands]
  · exact State.emit_commands _ _ rfl
  · exact State.nextByte_trace _
  · rfl

theorem State.wiSample_commands (s : State) : commandsOf s.wiSample.trace = commandsOf s.trace := by
  unfold State.wiSample
  split
  · rw [State.sampled_trace]
    exact State.emit_commands _ _ rfl
  · rw [State.abort_commands]
    exact State.emit_commands _ _ rfl

theorem State.wi_commands (s : State) : commandsOf s.wi.trace = commandsOf s.trace ++ s.commandsSentBy .wi := by
  unfold State.wi State.commandsSentBy
  cases s.wst with
  | cmd => exact s.cm_commands _
  | sample => exact s.wiSample_commands.trans (List.append_nil _).symm
  | delay => exact (s.emit_commands _ rfl).trans (List.append_nil _).symm

/-- A micro-operation adds to the trace the commands it sends (R174, R193, R196). -/
theorem State.micro_commands (s : State) (m : MicroOp) :
    commandsOf (s.micro m).trace = commandsOf s.trace ++ s.commandsSentBy m := by
  have silent : ∀ t : State, commandsOf t.trace = commandsOf s.trace → commandsOf t.trace = commandsOf s.trace ++ [] :=
    fun t ht => ht.trans (List.append_nil _).symm
  cases m with
  | cm b => exact s.cm_commands b
  | wi => exact s.wi_commands
  | wl l v => exact silent _ (s.wl_commands l v)
  | dt b => exact silent _ (s.dt_commands b)
  | dp p => exact silent _ (s.dp_commands p)
  | ph p => exact silent _ (State.emit_commands _ _ rfl)
  | dl ms => exact silent _ (s.emit_commands _ rfl)
  | rchk lw lr => exact silent _ (congrArg commandsOf (s.rchk_trace lw lr))
  | schk => exact silent _ (congrArg commandsOf s.schk_trace)
  | echk => exact silent _ (congrArg (commandsOf ·.trace) s.echk_frame :)
  | egrp low high => exact silent _ (congrArg (commandsOf ·.trace) (s.egrp_frame low high) :)
  | fin | efin => exact silent _ rfl

/-- Settles O45: by `step_legal_cases` a step adds no event or is the row's at `upc`, whose commands are R218's. -/
theorem onlyListedCommandsAreSent : Obligations.OnlyListedCommandsAreSent := by
  intro s t h hst
  have silent : t.trace = s.trace → ∃ cs, commandsOf t.trace = commandsOf s.trace ++ cs ∧ ∀ b ∈ cs, b ∈ sentCommands :=
    fun ht => ⟨[], by rw [ht, List.append_nil], List.forall_mem_nil _⟩
  obtain ⟨r, rest, -, -, he⟩ | ⟨l, he, -⟩ | ⟨l, he, -, -⟩ | ⟨l, m, he, -, hrow⟩ := step_legal_cases s h <;>
    obtain rfl := Host.Outcome.next.inj (he.symm.trans hst)
  · exact silent (State.hostStep_trace { s with inputs := rest } r)
  · exact silent rfl
  · exact silent rfl
  · exact ⟨_, State.micro_commands { s with inputs := l } m, State.commandsSentBy_listed { s with inputs := l } m hrow⟩

end Sys2Proof.Machine
end

section
/-! ## Errors (60_exceptions.md R260, R264, R268) -/

namespace Sys2Proof.Machine

variable (s : State)

/-! ### Reserved operations -/

/-- Settles O9: a reserved OP is dispatched to RSV, whose block step is `blockStep_reserved`'s, and the block's turn changes
only the queue. -/
theorem reservedOperationCompletes : Obligations.ReservedOperationCompletes := by
  refine ⟨rfl, fun s t ht hr hu hop => ?_⟩
  rw [step_blockTurn s t ht]
  obtain ⟨l, rfl⟩ := State.blockTurn_reads s t ht
  have hq : s.upc.seq = .rsv := by rw [hu]
  have hd : s.upc.seq = dispatch s.lOp := hq.trans (dispatch_reserved s.lOp hop).symm
  exact blockStep_reserved { s with inputs := l } hr hd hq

/-! ### Legal states go on -/

/-- Settles O42: whatever a step of a legal state does, it has a next state. -/
theorem legalStatesAlwaysStep : Obligations.LegalStatesAlwaysStep := by
  intro s h
  obtain ⟨_, _, -, -, he⟩ | ⟨_, he, -⟩ | ⟨_, he, -, -⟩ | ⟨_, _, he, -, -⟩ := step_legal_cases s h
  all_goals exact ⟨_, he⟩

/-! ### Failed byte transfers -/

/-- Which byte a step of an exchange sends: the data byte or the plane byte exactly at a row of the exchange that has one,
else the command byte (R108, R109, log 16). -/
theorem State.exchangeStep_rows (b : Byte) :
    (∃ d, s.row = some (.dt d) ∧ s.exchange = some b ∧ s.exchangeStep b = s.dt d) ∨
    (∃ p, s.row = some (.dp p) ∧ s.exchange = some b ∧ s.exchangeStep b = s.dp p) ∨
    ((∀ d, s.row = some (.dt d) → s.exchange ≠ some b) ∧ (∀ p, s.row = some (.dp p) → s.exchange ≠ some b) ∧
      s.exchangeStep b = s.cm b) := by
  by_cases hx : s.exchange = some b
  · unfold State.exchangeStep
    split
    next d hrow => exact .inl ⟨d, hrow, hx, if_pos hx⟩
    next p hrow => exact .inr (.inl ⟨p, hrow, hx, if_pos hx⟩)
    next hdt hdp => exact .inr (.inr ⟨fun d h => (hdt d h).elim, fun p h => (hdp p h).elim, rfl⟩)
  · obtain ⟨_, _, h, _⟩ | ⟨_, _, h, _⟩ | hcm := s.exchangeStep_cases b
    exacts [absurd h hx, absurd h hx, .inr (.inr ⟨fun _ _ => hx, fun _ _ => hx, hcm⟩)]

/-- What a failed byte transfer leaves, after the event it emitted: the answer is drawn, DC unknown, the operation
aborted (R193, R268). -/
def State.transferFailed (s : State) (ev : Event) (e : Terr) : State :=
  State.abort { s with
    answers := s.answers.tail, answerCtr := s.answerCtr + 1
    trace := s.trace ++ [ev], lvlDc := .unknown } e

theorem State.transferFailed_eq (ev : Event) (e : Terr) : s.transferFailed ev e = { s with
    answers := s.answers.tail, answerCtr := s.answerCtr + 1
    trace := s.trace ++ ev :: (if s.upc.seq = .init then [.phase .resetting] else [])
    lvlDc := .unknown, phase := if s.upc.seq = .init then .resetting else s.phase, pix := 0#16, wst := .cmd
    result := .transportError, resErr := some e, resValid := true, run := false, upc := ⟨.none, 0⟩ } := by
  rw [State.transferFailed, State.abort_eq]
  simp only [List.append_assoc, List.singleton_append]

/-- Settles O20: `State.exchangeStep_rows` says which byte the step sends, and each of the three sends fails alike. -/
theorem failedTransferAborts : Obligations.FailedTransferAborts := by
  intro i s e hf he
  simp only [exec_wireCmd s i hf, ← State.transferFailed_eq, Host.Outcome.next.injEq]
  obtain ⟨d, hrow, hx, hsend⟩ | ⟨p, hrow, hx, hsend⟩ | ⟨hdt, hdp, hsend⟩ := s.exchangeStep_rows i.opcode
  · refine ⟨.data d (.fail e), fun d' h _ => ?_, fun p h => ?_, fun hno => (hno d hrow hx).elim,
      hsend.trans (s.dt_fail d e he)⟩
    · cases hrow.symm.trans h; rfl
    · cases hrow.symm.trans h
  · refine ⟨.data (s.racedByte p s.pix.toNat) (.fail e), fun d h => ?_, fun p' h _ => ?_,
      fun _ hno => (hno p hrow hx).elim, hsend.trans (s.dp_fail p e he)⟩
    · cases hrow.symm.trans h
    · cases hrow.symm.trans h; rfl
  · exact ⟨.cmd i.opcode (.fail e), fun d h hx => (hdt d h hx).elim, fun p h hx => (hdp p h hx).elim, fun _ _ => rfl,
      hsend.trans (s.cm_fail i.opcode e he)⟩

end Sys2Proof.Machine
end

section
/-! ## Reset and hazards (70_reset_and_hazards.md R300 to R315) -/

namespace Sys2Proof.Machine

variable {s : State}

/-! ### Plane accesses that race the block -/

/-- A write while a RENDER runs is the plane write, and marks the old byte as one that may still be sent (R311, log 11). -/
theorem State.hostPlaneWrite_render (s : State) (p : Plane) (i : Nat) (v : Byte) (hi : i < Config.planeBytes)
    (hr : s.run = true) (hq : s.upc.seq = .render) : s.hostPlaneWrite p i v = { s.setPlaneByte p i v with
      races := ⟨p, i, s.planeByte p i, s.raceCtr⟩ :: s.races, raceCtr := s.raceCtr + 1 } := by
  simp only [State.hostPlaneWrite, if_pos hi, if_pos (And.intro hr hq)]

/-- The byte a running ENCODE is writing at its cursor is the frame function's (R146, R153). -/
theorem State.writing_cursor (s : State) (p : Plane) (hr : s.run = true) (hu : s.upc = ⟨.enc, 1⟩)
    (hx : s.ebx.toNat < Config.bytesPerRow) : s.writing p s.cursorIndex =
      some (encodeFrame s.cfg.overlap s.pixel s.eLow s.eHigh p s.cursorIndex) := by
  have hrow : s.row = some (.egrp s.eLow s.eHigh) := by rw [State.row, State.listing, hu]; rfl
  have hbyte : s.groupByte s.eLow s.eHigh p = encodeFrame s.cfg.overlap s.pixel s.eLow s.eHigh p s.cursorIndex := by
    cases p <;> rw [State.groupByte, State.groupBytes_eq s _ _ hx]
  simp only [State.writing, hrow, hr, and_self, if_true, hbyte]

/-- A read of a byte under way draws a race choice and gives the byte or the one being written (R86, R311, log 11). -/
theorem State.hostPlaneRead_race (s : State) (p : Plane) (i : Nat) (new : Byte) (hi : i < Config.planeBytes)
    (h : s.writing p i = some new) : ∃ b, (b = s.planeByte p i ∨ b = new) ∧
      s.hostPlaneRead p i = { s with lastRead := some (.byte b), raceCtr := s.raceCtr + 1 } := by
  refine ⟨if Config.freeRace s.raceCtr = true then new else s.planeByte p i, (ite_eq_or_eq _ _ _).symm, ?_⟩
  simp only [State.hostPlaneRead, if_pos hi, h]

/-- Settles O31: the write in a RENDER is a plane write and a mark, and the read at ENCODE's cursor races the frame
function's byte. -/
theorem racingPlaneAccess : Obligations.RacingPlaneAccess := by
  intro s p i v rest hi hr
  refine ⟨fun h hq => ?_, fun h hu hx hc => ?_⟩
  · have hwrite := State.hostPlaneWrite_render { s with inputs := rest } p i v hi hr hq
    refine ⟨_, (step_planeWrite h).trans (congrArg _ hwrite), ?_, fun q j hj => ?_, ?_⟩
    · exact (State.planeByte_setPlaneByte _ _ _ _ _ _ hi).trans (if_pos ⟨rfl, rfl⟩)
    · exact (State.planeByte_setPlaneByte _ _ _ _ _ _ hi).trans (if_neg hj)
    · rw [State.setPlaneByte_frame]
      rfl
  · obtain rfl : i = s.cursorIndex := hc
    obtain ⟨b, hb, hread⟩ := State.hostPlaneRead_race { s with inputs := rest } p s.cursorIndex _ hi
      (State.writing_cursor { s with inputs := rest } p hr hu hx)
    exact ⟨b, hb, by rw [step_planeRead h, hread]⟩

/-! ### The operand registers -/

/-- The outcome of `f` is the same whatever stands in the operand registers, and a next state keeps what stands there. -/
def OutcomeIgnoresOperands (f : State → Host.Outcome State Fault Refusal) : Prop :=
  ∀ (s : State) (op : Byte) (arg0 arg1 : Word),
    (∃ t, f s = .next t ∧ f (s.withOperands op arg0 arg1) = .next (t.withOperands op arg0 arg1) ∧
      t.op = s.op ∧ t.arg0 = s.arg0 ∧ t.arg1 = s.arg1) ∨
    ((∀ t, f s ≠ .next t) ∧ f (s.withOperands op arg0 arg1) = f s)

theorem IgnoresOperands.next {f : State → State} (h : IgnoresOperands f) : OutcomeIgnoresOperands fun s => .next (f s) :=
  fun s op a0 a1 => .inl ⟨_, rfl, congrArg _ (h s op a0 a1).1, (h s op a0 a1).2⟩

/-- A host operation's meaning, whose listing may depend on the configuration (R178). -/
theorem State.operationStep_outcomeIgnoresOperands (seq : Seq) (rows : Config → List MicroOp) :
    OutcomeIgnoresOperands fun s => s.operationStep seq (rows s.cfg) := fun s op a0 a1 => by
  obtain h | ⟨hf, hf'⟩ := s.operationStep_ignoresOperands seq (rows s.cfg) op a0 a1
  · exact .inl h
  · exact .inr ⟨fun t ht => (nomatch hf.symm.trans ht), hf'.trans hf.symm⟩

/-- No instruction's meaning reads or writes the operand registers (R315). -/
theorem exec_ignoresOperands (i : Instr) : OutcomeIgnoresOperands (exec i) := by
  have wire : i.format = .wireCmd → OutcomeIgnoresOperands (exec i) := fun hf => by
    rw [show exec i = fun s => .next (s.exchangeStep i.opcode) from funext fun s => exec_wireCmd s i hf]
    exact (State.exchangeStep_ignoresOperands i.opcode).next
  cases i with
  | encode low high => exact State.operationStep_outcomeIgnoresOperands .enc fun _ => encListing low high
  | init => exact State.operationStep_outcomeIgnoresOperands .init initListing
  | render lw lr => exact State.operationStep_outcomeIgnoresOperands .render fun _ => renderListing lw lr
  | sleep => exact State.operationStep_outcomeIgnoresOperands .sleep fun _ => sleepListing
  | _ => exact wire rfl

theorem State.runDecoded_ignoresOperands (d : Decoded) : OutcomeIgnoresOperands fun s => s.runDecoded d := by
  match d with
  | .ok i => exact exec_ignoresOperands i
  | .error (.reservedOperation _) => exact (State.complete_ignoresOperands .reservedOperation none).next
  | .error (.undefinedCommand _) => exact fun _ _ _ _ => .inr ⟨fun _ => nofun, rfl⟩

/-- A running block fetches by the latched operands, so its step is the same whatever the registers hold (R36, R315). -/
theorem State.blockStep_ignoresOperands : OutcomeIgnoresOperands State.blockStep := fun s op a0 a1 => by
  unfold State.blockStep
  split_ifs
  · exact State.runDecoded_ignoresOperands (decode s.fetch) s op a0 a1
  · exact IgnoresOperands.id.next s op a0 a1

/-- Whose turn it is does not depend on the operand registers. -/
theorem State.blockTurn.withOperands {u : State} (h : s.blockTurn u) (op : Byte) (arg0 arg1 : Word) :
    (s.withOperands op arg0 arg1).blockTurn (u.withOperands op arg0 arg1) := by
  obtain ⟨hw, hn, ⟨hi, rfl⟩ | ⟨rest, hi, rfl⟩ | ⟨rest, hi, hr, rfl⟩⟩ := h
  exacts [⟨hw, hn, .inl ⟨hi, rfl⟩⟩, ⟨hw, hn, .inr (.inl ⟨rest, hi, rfl⟩)⟩,
    ⟨hw, hn, .inr (.inr ⟨rest, hi, hr, rfl⟩)⟩]

/-- Settles O48: the block's step and every instruction's meaning ignore the operand registers. -/
theorem operandRegistersDoNotAffectARunningOperation : Obligations.OperandRegistersDoNotAffectARunningOperation := by
  refine ⟨fun s u op a0 a1 hu _ => ?_, fun i s t op a0 a1 h => ?_⟩
  · rw [step_blockTurn s u hu, step_blockTurn _ _ (hu.withOperands op a0 a1)]
    obtain ⟨l, rfl⟩ := State.blockTurn_reads s u hu
    obtain ⟨t, ht, ht', hkept⟩ | ⟨hstop, he⟩ := State.blockStep_ignoresOperands { s with inputs := l } op a0 a1
    · rw [ht, ht']
      exact ⟨fun t' h => Host.Outcome.next.inj h ▸ hkept, rfl⟩
    · refine ⟨fun t h => absurd h (hstop t), he.trans ?_⟩
      cases h : State.blockStep { s with inputs := l } with
      | next t => exact absurd h (hstop t)
      | fault | refused => rfl
  · obtain ⟨t', ht, ht', -⟩ | ⟨hstop, -⟩ := exec_ignoresOperands i s op a0 a1
    · rw [ht', Host.Outcome.next.inj (ht.symm.trans h)]
    · exact absurd h (hstop t)

/-! ### An idle block, and block reset -/

/-- Settles O6: the block's step of a state with RUN = 0 is that state, and the turn is taken with RUN as it was. -/
theorem idleBlockDoesNothing : Obligations.IdleBlockDoesNothing := by
  intro s t ht hr
  rw [step_blockTurn s t ht]
  obtain ⟨l, rfl⟩ := State.blockTurn_reads s t ht
  rw [State.blockStep, if_neg (by simp [hr])]

/-- Settles O32: the request is the host's `State.blockReset`, which is written with R51's values. -/
theorem blockResetRestoresR51 : Obligations.BlockResetRestoresR51 := fun s rest h =>
  ⟨State.blockReset { s with inputs := rest }, step_hostTurn s .blockReset rest h nofun (.inl nofun), rfl⟩

end Sys2Proof.Machine
end

section
/-! ## Where the model says more than the spec: commands no listing sends (log 15), the image port (log 9, 10, 29) and
meanings without a step (log 3) -/

namespace Sys2Proof.Machine

variable (s : State)

/-! ### The commands no listing sends -/

/-- Every command with data bytes is one that a listing sends (R109, R218). -/
theorem mem_sentCommands_of_mem_dataCommands : ∀ b ∈ dataCommands, b ∈ sentCommands := by decide

/-- A command that no listing sends moves nothing: no CM row holds it, and the busy-waits' command is GET_STATUS (R196,
R218). -/
theorem State.commandSent_unlisted (b : Byte) (hb : b ∉ sentCommands) : s.commandSent b = s := by
  have hstatus : 0x71#8 ∈ sentCommands := by decide
  refine s.commandSent_other b (fun hrow => hb ?_) (fun _ _ hget => hb ?_)
  · exact (listing_rows s _ hrow).1 b rfl
  · rwa [hget]

/-- The meaning of a command that no listing sends, with an answer of ok (R216, log 15). -/
theorem exec_unlisted (i : Instr) (hi : i.format = .wireCmd) (hb : i.opcode ∉ sentCommands) (h : s.nextAnswer = .ok) :
    exec i s = .next { s with
      answers := s.answers.tail, answerCtr := s.answerCtr + 1
      trace := s.trace ++ [.cmd i.opcode .ok], lvlDc := .known .low } := by
  have hdata : i.opcode ∉ dataCommands := mt (mem_sentCommands_of_mem_dataCommands _) hb
  rw [exec_wireCmd s i hi, State.exchangeStep_noData s _ hdata, s.cm_ok _ h, State.commandSent_unlisted _ _ hb]

/-- Settles O17: the 17 rows are wire commands outside R218's, each with its command byte. -/
theorem unlistedCommandsSendTheirByte : Obligations.UnlistedCommandsSendTheirByte := by
  intro s r hr h
  obtain ⟨hi, hop, hb⟩ : r.1.format = .wireCmd ∧ r.1.opcode = r.2 ∧ r.1.opcode ∉ sentCommands := by
    revert r
    decide
  rw [exec_unlisted s r.1 hi hb h, hop]

/-! ### The image port -/

/-- Without an ENCODE, or with the image that is there, the image is replaced and nothing is marked (R80). -/
theorem State.present_unmarked (img : Image) (h : s.run = false ∨ s.upc.seq ≠ .enc ∨ img = s.img) :
    s.present img = { s with img := img } := by
  refine if_neg ?_
  rintro ⟨hr, hq, hne⟩
  obtain hr' | hq' | rfl := h
  · exact Bool.false_ne_true (hr'.symm.trans hr)
  · exact hq' hq
  · exact hne rfl

/-- Another image while an ENCODE runs is marked as a change (R312, log 10). -/
theorem State.present_marked (img : Image) (hr : s.run = true) (hq : s.upc.seq = .enc) (hne : img ≠ s.img) :
    s.present img = { s with img := img, imgDisturbed := true, imgEpoch := s.imgEpoch + 1 } :=
  if_pos ⟨hr, hq, hne⟩

/-- Settles O33: the step is the host's `State.present`, which marks the image or does not. -/
theorem presentedImage : Obligations.PresentedImage := by
  intro s img rest h
  have hstep : step s = .next (State.present { s with inputs := rest } img) :=
    step_hostTurn s (.present img) rest h nofun (.inl nofun)
  exact ⟨fun hsame => hstep.trans (congrArg _ (State.present_unmarked _ img hsame)),
    fun hr hq hne => hstep.trans (congrArg _ (State.present_marked _ img hr hq hne))⟩

/-! ### Where a meaning stops -/

/-- At no row of its listing an operation has no step to take (log 3). -/
theorem State.operationStep_noRow (seq : Seq) (rows : List MicroOp) (h : s.upc.seq ≠ seq ∨ rows.length ≤ s.upc.k) :
    s.operationStep seq rows = .fault .operationNotRunning := by
  obtain hq | hk := h
  · exact if_neg hq
  · simp only [State.operationStep, List.getElem?_eq_none hk, ite_self]

/-- At a row of its listing an operation goes on (R40). -/
theorem State.operationStep_goesOn (seq : Seq) (rows : List MicroOp) (h : ¬(s.upc.seq ≠ seq ∨ rows.length ≤ s.upc.k)) :
    ∃ t, s.operationStep seq rows = .next t := by
  obtain ⟨hq, hk⟩ := not_or.1 h
  exact ⟨_, s.operationStep_row seq rows _ (not_not.1 hq) (List.getElem?_eq_getElem (not_le.1 hk))⟩

theorem State.operationStep_fault_iff (seq : Seq) (rows : List MicroOp) :
    s.operationStep seq rows = .fault .operationNotRunning ↔ s.upc.seq ≠ seq ∨ rows.length ≤ s.upc.k := by
  refine ⟨fun hf => ?_, s.operationStep_noRow seq rows⟩
  by_contra h
  obtain ⟨t, ht⟩ := s.operationStep_goesOn seq rows h
  cases hf.symm.trans ht

/-- An operation's step stops with the one fault or goes on (log 3). -/
theorem State.operationStep_fault_or_next (seq : Seq) (rows : List MicroOp) :
    s.operationStep seq rows = .fault .operationNotRunning ∨ ∃ t, s.operationStep seq rows = .next t :=
  (em _).imp (s.operationStep_noRow seq rows) (s.operationStep_goesOn seq rows)

/-- Settles O49: the four host operations are `State.operationStep` on listings of 3, 24, 12 and 7 rows, and a wire command
is a step of its exchange. -/
theorem whereAnInstructionStops : Obligations.WhereAnInstructionStops := by
  intro s
  refine ⟨fun low high => s.operationStep_fault_iff .enc (encListing low high),
    s.operationStep_fault_iff .init (initListing s.cfg),
    fun lw lr => s.operationStep_fault_iff .render (renderListing lw lr),
    s.operationStep_fault_iff .sleep sleepListing, fun i => ⟨fun hi => ?hostOp, fun hi => ⟨_, exec_wireCmd s i hi⟩⟩⟩
  cases i with
  | encode | init | render | sleep => exact s.operationStep_fault_or_next _ _
  | _ => cases hi

end Sys2Proof.Machine
end
